-- ==== Sys2Proof/Word.lean ====
section
/-! DEFINITION. The widths the spec computes on (spec/00_scope.md R7, R9; spec/30_encoding.md R80). -/

namespace Sys2Proof

/-- One byte of the transport stream or of the host link. -/
abbrev Byte := BitVec 8

/-- One 16-bit sample word (00 R7, SAMPLE_WIDTH; 30 R87). -/
abbrev Sample := BitVec 16

/-- A 32-bit operand, configuration register or host payload (10 R22; 48 R211). -/
abbrev Word32 := BitVec 32

/-- One 48-bit operation word (30 R80). -/
abbrev OpWord := BitVec 48

end Sys2Proof
end

