-- ==== Sys2Proof/Config.lean ====
section
/-! DEFINITION. The implementation's constants: those the spec fixes (spec/00_scope.md R7,
spec/48_host_frontend.md R210) as numbers, those it leaves OPEN (00 R8; 48 R210, R215, R216, R240) as bodyless
constants, so that a statement holds for every value of them (log 12). -/

namespace Sys2Proof.Config

/-! ## Fixed by the source (00 R7; 48 R210) -/

/-- Pre-trigger ring capacity in sample words (00 R7). -/
abbrev RING_CAP : Nat := 1024
/-- Post-trigger buffer capacity in sample words (00 R7). -/
abbrev POST_CAP : Nat := 100000
/-- Maximum number of trigger watchers (00 R7). -/
abbrev MAX_TRIG : Nat := 4
/-- Maximum run length with exactly one channel group enabled (00 R7). -/
abbrev RLE_MAX_1 : Nat := 128
/-- Maximum run length with both channel groups enabled (00 R7). -/
abbrev RLE_MAX_2 : Nat := 32768
/-- One-byte run header marker (00 R7). -/
abbrev RLE_MARK_1 : BitVec 8 := 0x80
/-- Two-byte run header marker (00 R7). -/
abbrev RLE_MARK_2 : BitVec 16 := 0x8000
/-- Regime threshold in Hz (48 R210, R240). -/
abbrev RATE_THRESHOLD : Rat := 5000
/-- Processor clock of the fast regime in Hz (48 R210). -/
abbrev FAST_CLK : Nat := 200000000
/-- Processor clock of the slow regime in Hz (48 R210). -/
abbrev SLOW_CLK : Nat := 100000000
/-- The divisor's clamp (48 R210). -/
abbrev DIV_MAX : Rat := 65535

/-! ## OPEN parameters of the block (00 R8; decisions D9, D10, D11, D13) -/

/-- The ring counter's value at ARM: any 32-bit value (00 R8; 92 D13). -/
opaque INITIAL_COUNT : BitVec 32
/-- Pin number of channel 0: 0..16 (00 R8; 41 R140; 92 D9). -/
opaque CAPTURE_BASE : Fin 17
/-- Extra ticks the ring keeps recording after the fire tick: any natural number (00 R8; 41 R146; 92 D10). -/
opaque HANDOFF_DELAY : Nat
/-- An edge watcher's reference level before its first tick: none, 0 or 1 (00 R8; 41 R144; 92 D11). -/
opaque EDGE_REF_INIT : Option Bool

/-! ## OPEN parameters of the front-end (48 R210; decisions D40, D41, D42) -/

/-- The boot-time edge-override pin (48 R210; 92 D41). -/
opaque EDGE_OVERRIDE : Bool
/-- BASE_CLOCK_RATE's numerator, less one (48 R210: a positive rational). -/
opaque BASE_CLOCK_NUM : Nat
/-- BASE_CLOCK_RATE's denominator, less one (48 R210: a positive rational). -/
opaque BASE_CLOCK_DEN : Nat
/-- BASE_CLOCK_RATE in Hz: OPEN, a positive rational; every positive rational has this form (48 R210; 92 D41). -/
def BASE_CLOCK_RATE : Rat := ((BASE_CLOCK_NUM + 1 : Nat) : Rat) / ((BASE_CLOCK_DEN + 1 : Nat) : Rat)
/-- How the clamped divisor is quantised to the sampling unit's divider (48 R240; 92 D40; 93 I27; log 22). -/
opaque DIV_QUANT : Rat → Rat
/-- The four bytes of the ID response, first byte at index 0 (48 R215; 92 D42). -/
opaque ID_BYTES : Fin 4 → Byte

/-- The six metadata fields (48 R216), in the order of `metaFields`. -/
inductive MetaField
  | deviceName | firmwareVersion | sampleMemory | maxSampleRate | channelCount | protocolVersion
  deriving DecidableEq, Repr

/-- A metadata field's value: a string (without its null) or a number (48 R216). -/
inductive MetaValue
  | str (bytes : List Byte)
  | num (value : BitVec 32)
  deriving DecidableEq, Repr, Inhabited

/-- The tag byte of each metadata field: OPEN (48 R216; 92 D42). -/
opaque META_TAG : MetaField → Byte
/-- The value of each metadata field: OPEN, its kind too (48 R216; 92 D42; log 20). -/
opaque META_VALUE : MetaField → MetaValue

/-! ## Free values (a result the spec does not state) -/

/-- The 32-bit operand a run command issues for a sample count that is negative or needs more than 32 bits: the spec
states none (48 R214 against 30 R82; DESIGN CHOICE, log 13). -/
opaque OVERSIZE_COUNT : Int → BitVec 32

end Sys2Proof.Config
end

