-- ==== Sys2Proof/Syntax.lean ====
section
/-! DEFINITION. The operations of the block and the commands of its host front-end: one constructor per row of
spec/opcode_table.json (spec/30_encoding.md R81, R83, R92). -/

namespace Sys2Proof

/-- The block's operations and the host commands. A field holds the operand as the encoding gives it; which values are
legal is `Instr.wellFormed`. The seven (illegal) rows keep the 44 bits below OP, so that no bit of the word is lost. -/
inductive Instr
  /-- OP 0x1: write `v` to configuration register `r` (40 R110). -/
  | cfgwr (r : BitVec 8) (v : Word32)
  /-- OP 0x2: start a capture (40 R111). -/
  | arm
  /-- OP 0x3: halt a capture or a transmission (40 R114). -/
  | abort
  /-- OP 0x4: one sampling-clock period with pin snapshot `g` (41 R141). -/
  | tick (g : Word32)
  /-- OP 0x5: service the capture-complete notification (40 R115). -/
  | cirq
  /-- OP 0x6: service the trigger-detected notification (40 R116). -/
  | tirq
  /-- OP 0x7: read logical sample `i` (42 R176). -/
  | read (i : Word32)
  /-- OP 0x8: begin a transmission (42 R178). -/
  | txstart
  /-- OP 0x9: emit one unit, or abandon the transmission if `c` (42 R179). -/
  | txunit (c : Bool)
  /-- OP 0x0: an illegal operation word (30 R83). -/
  | illegal0 (rest : BitVec 44)
  /-- OP 0xA: an illegal operation word (30 R83). -/
  | illegalA (rest : BitVec 44)
  /-- OP 0xB: an illegal operation word (30 R83). -/
  | illegalB (rest : BitVec 44)
  /-- OP 0xC: an illegal operation word (30 R83). -/
  | illegalC (rest : BitVec 44)
  /-- OP 0xD: an illegal operation word (30 R83). -/
  | illegalD (rest : BitVec 44)
  /-- OP 0xE: an illegal operation word (30 R83). -/
  | illegalE (rest : BitVec 44)
  /-- OP 0xF: an illegal operation word (30 R83). -/
  | illegalF (rest : BitVec 44)
  /-- Host byte 0x00 (48 R213). -/
  | hostReset
  /-- Host byte 0x01 (48 R214). -/
  | hostRun
  /-- Host byte 0x02 (48 R215). -/
  | hostSendId
  /-- Host byte 0x04 (48 R216). -/
  | hostSendMetadata
  /-- Host byte 0xC0, payload `p` (48 R217). -/
  | hostTrigMask0 (p : Word32)
  /-- Host byte 0xC1, payload `p` (48 R218). -/
  | hostTrigValues0 (p : Word32)
  /-- Host byte 0xC2, payload `p` (48 R219). -/
  | hostTrigConfig0 (p : Word32)
  /-- Host byte 0xC4, payload `p` (48 R217). -/
  | hostTrigMask1 (p : Word32)
  /-- Host byte 0xC5, payload `p` (48 R218). -/
  | hostTrigValues1 (p : Word32)
  /-- Host byte 0xC6, payload `p` (48 R219). -/
  | hostTrigConfig1 (p : Word32)
  /-- Host byte 0xC8, payload `p` (48 R217). -/
  | hostTrigMask2 (p : Word32)
  /-- Host byte 0xC9, payload `p` (48 R218). -/
  | hostTrigValues2 (p : Word32)
  /-- Host byte 0xCA, payload `p` (48 R219). -/
  | hostTrigConfig2 (p : Word32)
  /-- Host byte 0xCC, payload `p` (48 R217). -/
  | hostTrigMask3 (p : Word32)
  /-- Host byte 0xCD, payload `p` (48 R218). -/
  | hostTrigValues3 (p : Word32)
  /-- Host byte 0xCE, payload `p` (48 R219). -/
  | hostTrigConfig3 (p : Word32)
  /-- Host byte 0x80, payload `p` (48 R220). -/
  | hostDivisor (p : Word32)
  /-- Host byte 0x81, payload `p` (48 R221; 30 R96). -/
  | hostLegacySize (p : Word32)
  /-- Host byte 0x82, payload `p` (48 R222; 30 R95). -/
  | hostFlags (p : Word32)
  /-- Host byte 0x83, payload `p` (48 R223). -/
  | hostTotalSamples (p : Word32)
  /-- Host byte 0x84, payload `p` (48 R224). -/
  | hostPreTrigger (p : Word32)
  /-- Any other host byte `b` (48 R225). -/
  | hostOther (b : Byte)
  deriving DecidableEq, Repr

/-- Who presents an operation (00 R6; 30 R81). The host's command bytes are read by the main sequence (48 R212). -/
inductive Agent
  | sampler | completionService | triggerService | main
  deriving DecidableEq, Repr

end Sys2Proof
end

