-- ==== Sys2Proof/Machine/State.lean ====
section
/-! DEFINITION. The state of the block and of its front-end as plain data (spec/10_state.md R20 to R46;
spec/48_host_frontend.md R211), what a step can stop with, and the state after reset (10 R45; spec/70_reset_and_hazards.md
R290). -/

namespace Sys2Proof.Machine

/-! ## Run marks (10 R42; 60 R260, R261) -/

/-- Why the run is faulted (60 R260). The two storage faults record the slot index. Raised by a meaning as a NEXT state
whose `faulted` mark is set (log 1). -/
inductive FaultReason
  | startWhileCapturing
  | armDuringTransmit
  | readUnwrittenRing (slot : Nat)
  | readUnwrittenPost (slot : Nat)
  deriving DecidableEq, Repr

/-- Why an operation, a word or a host command was refused (60 R261). Set as the `refused` mark of a NEXT state
(log 1). -/
inductive RefuseReason
  | illegalOp
  | reservedBits
  | reservedRegister
  | noPostSamples
  | readBeforeComplete
  | noSamplesReady
  | rleNoGroups
  | noTransmission
  | negativePreTrigger
  | triggerPinOutOfRange
  | zeroRate
  deriving DecidableEq, Repr

/-! ## What a step or a meaning can stop with -/

/-- The host's fault outcome. -/
inductive Fault
  /-- Raised by `step` alone, in a state whose `faulted` mark is set: that state is final (60 R260; 00 R12). Safe: the run
  is over there (70 R302). -/
  | faultedFinal (r : FaultReason)
  /-- Raised by TICK when the post sampler runs with a fill count beyond the buffer: the slot does not exist (20 R62); no
  state reached from reset is such (log 16). Safe. -/
  | noSuchPostSlot (k : Nat)
  deriving DecidableEq, Repr

/-- The host's refusal outcome. -/
inductive Refusal
  /-- An instruction with no meaning yet. Safe. -/
  | notModelled (mnemonic : String)
  /-- Answered by CIRQ and TIRQ in a state in which the operation has no step: the spec's fourth outcome, 'not enabled'
  (00 R12). `step` never answers it: the agent waits instead (log 3). Safe. -/
  | notEnabled (mnemonic : String)
  deriving DecidableEq, Repr

/-! ## Parts of the state -/

/-- The controller state (10 R27). -/
inductive Acq
  | idle | capturing
  deriving DecidableEq, Repr

/-- One element of the event output (10 R41). -/
inductive Event
  | onComplete (n : Nat)
  | trigNotify
  | diagUnderrun (requested delivered : Nat)
  | diagTrigDrop (stage : Nat)
  deriving DecidableEq, Repr

/-- The latched capture configuration (10 R26), the fields L_TOTAL, L_PRE, L_POST, L_TRIG, L_NTRIG, L_G0, L_G1, L_RLE. -/
structure Latched where
  total : Nat
  pre   : Nat
  post  : Nat
  trig  : Vector (BitVec 8) 4
  ntrig : Nat
  g0    : Bool
  g1    : Bool
  rle   : Bool
  deriving DecidableEq, Repr

/-- One trigger stage of the front-end (48 R211). -/
structure StageRegs where
  mask   : Word32
  values : Word32
  config : Word32
  deriving DecidableEq, Repr

/-- The front-end's state (48 R211). -/
structure FrontEnd where
  divisor           : Word32
  flags             : Word32
  stages            : Vector StageRegs 4
  totalSamples      : Int
  preTriggerSamples : Int
  rate              : Rat
  deriving DecidableEq, Repr

/-- The result of SelectClock (48 R240): the processor clock in Hz, the clamped divisor, and the divisor as the sampling
unit's divider takes it. -/
structure ClockSel where
  clk   : Nat
  div   : Rat
  quant : Rat
  deriving DecidableEq, Repr

/-- Storage of 16-bit words: slots in strictly rising order, an unlisted slot having no value (10 R34, R35). -/
abbrev Memory := List (Nat × Sample)

/-- One choice of the environment: which agent moves next (00 R6; log 4). -/
inductive Turn
  /-- An agent presents an operation word; which agent follows from the word (30 R81). -/
  | op (w : OpWord)
  /-- The main sequence polls the host link (48 R212). -/
  | poll
  /-- The main sequence takes the next operation a host command issued (48 R214; log 5). -/
  | issuedOp
  /-- The block is reset: power-on, or the reset of the processor that contains it (70 R290; log 25). -/
  | blockReset
  deriving DecidableEq, Repr

/-! ## The state -/

/-- Everything the spec gives the block (10 R22 to R42) and its front-end (48 R211), and the model's own interface
fields. -/
structure State where
  /-- CFG_TOTAL (10 R23). -/
  cfgTotal : Word32
  /-- CFG_PRE (10 R23). -/
  cfgPre : Word32
  /-- CFG_TRIG0..3 (10 R24). -/
  cfgTrig : Vector Word32 4
  /-- CFG_MODE (10 R25). -/
  cfgMode : Word32
  /-- The latched configuration (10 R26). -/
  lat : Latched
  /-- The controller state (10 R27). -/
  acq : Acq
  /-- The ring's sampler runs (10 R29). -/
  ringEn : Bool
  /-- The post buffer's sampler runs (10 R29). -/
  postEn : Bool
  /-- The multiplexer is enabled (10 R29). -/
  muxEn : Bool
  /-- The watchers are enabled (10 R29). -/
  watchEn : Bool
  /-- The handoff countdown (10 R30). -/
  handoff : Option Nat
  /-- The watchers' reference levels (10 R31). -/
  ref : Vector (Option Bool) 4
  /-- The ring's remaining-transfer counter (10 R32). -/
  ringRemaining : BitVec 32
  /-- The ring storage (10 R34). -/
  ring : Memory
  /-- The post-trigger storage (10 R35). -/
  post : Memory
  /-- The post buffer's fill count (10 R35). -/
  postCount : Nat
  /-- win_first (10 R37). -/
  winFirst : Nat
  /-- win_avail (10 R37). -/
  winAvail : Nat
  /-- win_avail < L_PRE (10 R37). -/
  underrun : Bool
  /-- The buffers hold a completed capture (10 R37). -/
  dataValid : Bool
  /-- A completed capture awaits transmission (10 R37). -/
  samplesReady : Bool
  /-- A transmission is in progress (10 R38). -/
  txActive : Bool
  /-- The next logical index the encoder reads (10 R38). -/
  txNext : Int
  /-- The capture-complete notification is pending (10 R39). -/
  compPending : Bool
  /-- The trigger-detected notification is pending (10 R39). -/
  trigIrqPending : Bool
  /-- The transport byte stream, in emission order (10 R41). -/
  txOut : List Byte
  /-- The events, in emission order (10 R41). -/
  events : List Event
  /-- The faulted mark and its reason (10 R42). -/
  faulted : Option FaultReason
  /-- The refused mark and its reason (10 R42). -/
  refused : Option RefuseReason
  /-- The front-end (48 R211). -/
  fe : FrontEnd
  /-- The model's own: the host link's incoming byte slots, `none` for a slot that timed out (48 R212; log 7). -/
  hostRx : List (Option Byte)
  /-- The model's own: the bytes sent on the host link by the ID and metadata commands (48 R215, R216; log 9). -/
  hostTx : List Byte
  /-- The model's own: what the last run command selected (48 R240; log 10). -/
  clockSel : Option ClockSel
  /-- The model's own: what the last READ returned (42 R176; log 8). -/
  readResult : Option Sample
  /-- The model's own: the environment's choices of who moves next (00 R6; log 4). -/
  turns : List Turn
  /-- The model's own: operation words a host command issued and the main sequence has not taken yet (48 R214;
  log 5). -/
  issued : List OpWord
  deriving DecidableEq, Repr

/-- The latched configuration after reset (10 R45). -/
def Latched.zero : Latched :=
  { total := 0, pre := 0, post := 0, trig := #v[0, 0, 0, 0], ntrig := 0, g0 := false, g1 := false, rle := false }

/-- One trigger stage after reset, and after the host's reset command (48 R211, R213). -/
def StageRegs.zero : StageRegs := { mask := 0, values := 0, config := 0 }

/-- The front-end after reset (48 R211). -/
def FrontEnd.zero : FrontEnd :=
  { divisor := 0, flags := 0
    stages := #v[StageRegs.zero, StageRegs.zero, StageRegs.zero, StageRegs.zero]
    totalSamples := 0, preTriggerSamples := 0, rate := 0 }

/-- The block after reset (10 R45; 70 R290). `ringRemaining`, to which the spec gives no value, is 0 (DESIGN CHOICE,
log 11). -/
def State.reset : State :=
  { cfgTotal := 0, cfgPre := 0, cfgTrig := #v[0, 0, 0, 0], cfgMode := 0
    lat := Latched.zero
    acq := .idle
    ringEn := false, postEn := false, muxEn := false, watchEn := false
    handoff := none
    ref := #v[none, none, none, none]
    ringRemaining := 0
    ring := [], post := [], postCount := 0
    winFirst := 0, winAvail := 0
    underrun := false, dataValid := false, samplesReady := false
    txActive := false, txNext := -1
    compPending := false, trigIrqPending := false
    txOut := [], events := []
    faulted := none, refused := none
    fe := FrontEnd.zero
    hostRx := [], hostTx := [], clockSel := none, readResult := none, turns := [], issued := [] }

end Sys2Proof.Machine
end

