-- ==== Sys2Proof/Machine/Operands.lean ====
section
/-! DEFINITION. The operand forms and bit fields of the spec: trigger descriptors and the mode register
(spec/10_state.md R24, R25), the pin snapshot (spec/41_sampling_trigger.md R140), raw transport bytes and run headers
(spec/42_readout_transport.md R177, R183), the host's stage, flags and size words (spec/30_encoding.md R94 to R96). -/

namespace Sys2Proof.Machine

open Sys2Proof.Config

/-! ## Trigger descriptor (10 R24) -/

/-- The four kinds of match (10 R24). -/
inductive MatchKind
  | levelHigh | levelLow | edgeHigh | edgeLow
  deriving DecidableEq, Repr

/-- EN, bit 7. -/
def trigEn (d : BitVec 8) : Bool := d.getLsbD 7

/-- KIND, bits 6:5 (10 R24; 30 R88). -/
def trigKind (d : BitVec 8) : MatchKind :=
  match (d.extractLsb' 5 2).toNat with
  | 0 => .levelHigh
  | 1 => .levelLow
  | 2 => .edgeHigh
  | _ => .edgeLow

/-- PIN, bits 4:0. -/
def trigPin (d : BitVec 8) : Nat := (d.extractLsb' 0 5).toNat

/-- The KIND code (10 R24; 48 R214). -/
def kindCode : MatchKind → BitVec 8
  | .levelHigh => 0
  | .levelLow => 1
  | .edgeHigh => 2
  | .edgeLow => 3

/-- The descriptor of an enabled trigger, `0x80 | (kindCode << 5) | pin` (48 R214; 30 R86). -/
def descriptor (k : MatchKind) (pin : Nat) : BitVec 8 :=
  0x80#8 ||| (kindCode k <<< 5) ||| BitVec.ofNat 8 pin

/-! ## The pin snapshot (41 R140) -/

/-- The sample word of a snapshot: `g[CAPTURE_BASE + 15 : CAPTURE_BASE]` (41 R140). -/
def sampleWord (g : Word32) : Sample := g.extractLsb' CAPTURE_BASE.val 16

/-- The level of pin `p` in a snapshot (41 R140). -/
def pinLevel (g : Word32) (p : Nat) : Bool := g.getLsbD p

/-- The pin that feeds channel `c` (48 R237). -/
def channelPin (c : Nat) : Nat := CAPTURE_BASE.val + c

/-! ## Transport (42 R177, R183) -/

/-- Mask(): the active channel-group bits (42 R177). -/
def groupMask (l : Latched) : Sample :=
  (if l.g0 then 0x00FF#16 else 0) ||| (if l.g1 then 0xFF00#16 else 0)

/-- NG(): the number of enabled channel groups (42 R177). -/
def groupCount (l : Latched) : Nat := (if l.g0 then 1 else 0) + (if l.g1 then 1 else 0)

/-- RawBytes(v): the raw transport unit (42 R177; 30 R89). -/
def rawBytes (l : Latched) (v : Sample) : List Byte :=
  (if l.g0 then [v.extractLsb' 0 8] else []) ++ (if l.g1 then [v.extractLsb' 8 8] else [])

/-- The maximum run length (42 R182). -/
def maxRun (l : Latched) : Nat := if groupCount l = 1 then RLE_MAX_1 else RLE_MAX_2

/-- Header(n) (42 R183; 30 R90). -/
def runHeader (l : Latched) (n : Nat) : List Byte :=
  if groupCount l = 1 then [RLE_MARK_1 ||| BitVec.ofNat 8 (n - 1)]
  else
    let h : BitVec 16 := RLE_MARK_2 ||| BitVec.ofNat 16 (n - 1)
    [h.extractLsb' 0 8, h.extractLsb' 8 8]

/-! ## Stage configuration word (30 R94) -/

/-- START, bit 27. -/
def stageStart (c : Word32) : Bool := c.getLsbD 27
/-- SERIAL, bit 26. -/
def stageSerial (c : Word32) : Bool := c.getLsbD 26
/-- CHANNEL, bits 24:20. -/
def stageChannel (c : Word32) : Nat := (c.extractLsb' 20 5).toNat
/-- LEVEL, bits 17:16. -/
def stageLevel (c : Word32) : Nat := (c.extractLsb' 16 2).toNat

/-! ## Flags word (30 R95) -/

/-- DEMUX, bit 0. -/
def flagDemux (f : Word32) : Bool := f.getLsbD 0
/-- G0EN = not bit 2 (48 R214). -/
def flagG0 (f : Word32) : Bool := !f.getLsbD 2
/-- G1EN = not bit 3 (48 R214). -/
def flagG1 (f : Word32) : Bool := !f.getLsbD 3
/-- RLE, bit 8. -/
def flagRle (f : Word32) : Bool := f.getLsbD 8

/-- The mode register's value from its three bits: `g0 | g1 << 1 | rle << 2` (10 R25; 30 R86; 48 R214). -/
def modeWord (g0 g1 rle : Bool) : Word32 :=
  (if g0 then 1#32 else 0) ||| (if g1 then 2#32 else 0) ||| (if rle then 4#32 else 0)

/-! ## Size payloads (30 R96; 48 R210) -/

/-- SIZE_XFORM(v) = 4v + 4 (48 R210). -/
def sizeXform (v : Nat) : Int := 4 * (v : Int) + 4

/-- The low 16 bits of a legacy size payload (30 R96). -/
def lowWord (p : Word32) : Nat := (p.extractLsb' 0 16).toNat
/-- The high 16 bits of a legacy size payload (30 R96). -/
def highWord (p : Word32) : Nat := (p.extractLsb' 16 16).toNat

end Sys2Proof.Machine
end

