-- ==== Sys2Proof/WellFormed.lean ====
section
/-! DEFINITION. Which operand values the encodings admit (spec/30_encoding.md R83, R92; spec/48_host_frontend.md
R225). -/

namespace Sys2Proof

/-- The command bytes with a row of their own in the host command map (30 R92). -/
def listedCommandBytes : List Byte :=
  [0x00, 0x01, 0x02, 0x04, 0x80, 0x81, 0x82, 0x83, 0x84] ++
  [0xC0, 0xC1, 0xC2, 0xC4, 0xC5, 0xC6, 0xC8, 0xC9, 0xCA, 0xCC, 0xCD, 0xCE]

/-- CFGWR names a register 0..6 (30 R83); HOST_OTHER's byte is none of the listed ones (48 R225); every other operand
value is legal. -/
def Instr.wellFormed : Instr → Bool
  | .cfgwr r _ => decide (r.toNat < 7)
  | .hostOther b => !listedCommandBytes.contains b
  | .arm | .abort | .tick _ | .cirq | .tirq | .read _ | .txstart | .txunit _ => true
  | .illegal0 _ | .illegalA _ | .illegalB _ | .illegalC _ | .illegalD _ | .illegalE _ | .illegalF _ => true
  | .hostReset | .hostRun | .hostSendId | .hostSendMetadata => true
  | .hostTrigMask0 _ | .hostTrigValues0 _ | .hostTrigConfig0 _ => true
  | .hostTrigMask1 _ | .hostTrigValues1 _ | .hostTrigConfig1 _ => true
  | .hostTrigMask2 _ | .hostTrigValues2 _ | .hostTrigConfig2 _ => true
  | .hostTrigMask3 _ | .hostTrigValues3 _ | .hostTrigConfig3 _ => true
  | .hostDivisor _ | .hostLegacySize _ | .hostFlags _ | .hostTotalSamples _ | .hostPreTrigger _ => true

end Sys2Proof
end

