-- ==== Sys2Proof/Decode.lean ====
section
/-! DEFINITION. The two encodings, decoder first and encoder after it: 48-bit operation words (spec/30_encoding.md R80 to
R84) and host command bytes (30 R92, R93; spec/48_host_frontend.md R212). -/

namespace Sys2Proof

/-! ## Fields of an operation word (30 R80) -/

/-- Bits 47:44. -/
def opField (w : OpWord) : BitVec 4 := w.extractLsb' 44 4
/-- Bits 43:40. -/
def rsvField (w : OpWord) : BitVec 4 := w.extractLsb' 40 4
/-- Bits 39:32. -/
def aField (w : OpWord) : BitVec 8 := w.extractLsb' 32 8
/-- Bits 31:0. -/
def dField (w : OpWord) : Word32 := w.extractLsb' 0 32
/-- Bits 43:0, what an illegal word holds below OP. -/
def belowOp (w : OpWord) : BitVec 44 := w.extractLsb' 0 44

/-- Why a word with a legal OP is refused at decode (30 R83). The third refusal of R83, IllegalOp, is the meaning of the
(illegal) rows (log 21). -/
inductive DecodeError
  /-- RSV or a must-be-0 field is not 0. -/
  | reservedBits
  /-- CFGWR with a register number of 7 or more. -/
  | reservedRegister
  deriving DecidableEq, Repr

/-- What a decoder answers for one operation word. -/
inductive Decoded
  | instr (i : Instr)
  | rejected (e : DecodeError)
  deriving DecidableEq, Repr

/-- The decoder of operation words: total on the 2^48 words, OP first, then the reserved bits, then the register number
(30 R81, R83; 60 R263). -/
def decodeOp (w : OpWord) : Decoded :=
  let clean (ok : Bool) (i : Instr) : Decoded :=
    if rsvField w = 0 ∧ ok = true then .instr i else .rejected .reservedBits
  let a0 : Bool := aField w == 0
  let d0 : Bool := dField w == 0
  match (opField w).toNat with
  | 0x0 => .instr (.illegal0 (belowOp w))
  | 0x1 =>
    if rsvField w ≠ 0 then .rejected .reservedBits
    else if 7 ≤ (aField w).toNat then .rejected .reservedRegister
    else .instr (.cfgwr (aField w) (dField w))
  | 0x2 => clean (a0 && d0) .arm
  | 0x3 => clean (a0 && d0) .abort
  | 0x4 => clean a0 (.tick (dField w))
  | 0x5 => clean (a0 && d0) .cirq
  | 0x6 => clean (a0 && d0) .tirq
  | 0x7 => clean a0 (.read (dField w))
  | 0x8 => clean (a0 && d0) .txstart
  | 0x9 => clean ((aField w).extractLsb' 1 7 == 0 && d0) (.txunit ((aField w).getLsbD 0))
  | 0xA => .instr (.illegalA (belowOp w))
  | 0xB => .instr (.illegalB (belowOp w))
  | 0xC => .instr (.illegalC (belowOp w))
  | 0xD => .instr (.illegalD (belowOp w))
  | 0xE => .instr (.illegalE (belowOp w))
  | _ => .instr (.illegalF (belowOp w))

/-! ## Host commands (30 R92, R93) -/

/-- Whether a command byte is followed by a 4-byte payload (30 R92). -/
def takesPayload (b : Byte) : Bool :=
  match b.toNat with
  | 0x80 | 0x81 | 0x82 | 0x83 | 0x84 => true
  | 0xC0 | 0xC1 | 0xC2 | 0xC4 | 0xC5 | 0xC6 => true
  | 0xC8 | 0xC9 | 0xCA | 0xCC | 0xCD | 0xCE => true
  | _ => false

/-- The command of byte `b` with payload `p` (30 R92); `p` is not looked at by a command without a payload. -/
def decodeCommand (b : Byte) (p : Word32) : Instr :=
  match b.toNat with
  | 0x00 => .hostReset
  | 0x01 => .hostRun
  | 0x02 => .hostSendId
  | 0x04 => .hostSendMetadata
  | 0x80 => .hostDivisor p
  | 0x81 => .hostLegacySize p
  | 0x82 => .hostFlags p
  | 0x83 => .hostTotalSamples p
  | 0x84 => .hostPreTrigger p
  | 0xC0 => .hostTrigMask0 p
  | 0xC1 => .hostTrigValues0 p
  | 0xC2 => .hostTrigConfig0 p
  | 0xC4 => .hostTrigMask1 p
  | 0xC5 => .hostTrigValues1 p
  | 0xC6 => .hostTrigConfig1 p
  | 0xC8 => .hostTrigMask2 p
  | 0xC9 => .hostTrigValues2 p
  | 0xCA => .hostTrigConfig2 p
  | 0xCC => .hostTrigMask3 p
  | 0xCD => .hostTrigValues3 p
  | 0xCE => .hostTrigConfig3 p
  | _ => .hostOther b

/-- The byte a payload read takes from its slot: a slot that timed out, or that never comes, reads as zero (48 R212). -/
def payloadByte (slot : Option (Option Byte)) : Byte := (slot.getD none).getD 0

/-- The 4-byte little-endian payload at the head of the link's slots (48 R212): first byte = P[7:0]. -/
def payloadOf (rx : List (Option Byte)) : Word32 :=
  payloadByte rx[3]? ++ payloadByte rx[2]? ++ payloadByte rx[1]? ++ payloadByte rx[0]?

/-- One poll of the host link (48 R212): the command read, if any, and the slots left. A slot with no byte, or an empty
link, is 'no command'. -/
def pollCommand : List (Option Byte) → Option Instr × List (Option Byte)
  | [] => (none, [])
  | none :: rx => (none, rx)
  | some b :: rx =>
    if takesPayload b then (some (decodeCommand b (payloadOf rx)), rx.drop 4)
    else (some (decodeCommand b 0), rx)

/-! ## Encoder -/

/-- An operation word from its fields, RSV = 0 (30 R80). -/
def opWord (op : BitVec 4) (a : BitVec 8) (d : Word32) : OpWord := op ++ (0#4 ++ (a ++ d))

/-- The bytes of a 32-bit value, least significant first (30 R92). -/
def bytesLE (p : Word32) : List Byte :=
  [p.extractLsb' 0 8, p.extractLsb' 8 8, p.extractLsb' 16 8, p.extractLsb' 24 8]

/-- What is presented for an instruction: an operation word at the block's interface, or bytes on the host link. -/
inductive Transaction
  | op (w : OpWord)
  | host (bytes : List Byte)
  deriving DecidableEq, Repr

/-- The encoding of every instruction, from the tables of 30 R81 and 30 R92. -/
def encode : Instr → Transaction
  | .cfgwr r v => .op (opWord 0x1 r v)
  | .arm => .op (opWord 0x2 0 0)
  | .abort => .op (opWord 0x3 0 0)
  | .tick g => .op (opWord 0x4 0 g)
  | .cirq => .op (opWord 0x5 0 0)
  | .tirq => .op (opWord 0x6 0 0)
  | .read i => .op (opWord 0x7 0 i)
  | .txstart => .op (opWord 0x8 0 0)
  | .txunit c => .op (opWord 0x9 (if c then 1 else 0) 0)
  | .illegal0 x => .op (0x0#4 ++ x)
  | .illegalA x => .op (0xA#4 ++ x)
  | .illegalB x => .op (0xB#4 ++ x)
  | .illegalC x => .op (0xC#4 ++ x)
  | .illegalD x => .op (0xD#4 ++ x)
  | .illegalE x => .op (0xE#4 ++ x)
  | .illegalF x => .op (0xF#4 ++ x)
  | .hostReset => .host [0x00]
  | .hostRun => .host [0x01]
  | .hostSendId => .host [0x02]
  | .hostSendMetadata => .host [0x04]
  | .hostTrigMask0 p => .host (0xC0 :: bytesLE p)
  | .hostTrigValues0 p => .host (0xC1 :: bytesLE p)
  | .hostTrigConfig0 p => .host (0xC2 :: bytesLE p)
  | .hostTrigMask1 p => .host (0xC4 :: bytesLE p)
  | .hostTrigValues1 p => .host (0xC5 :: bytesLE p)
  | .hostTrigConfig1 p => .host (0xC6 :: bytesLE p)
  | .hostTrigMask2 p => .host (0xC8 :: bytesLE p)
  | .hostTrigValues2 p => .host (0xC9 :: bytesLE p)
  | .hostTrigConfig2 p => .host (0xCA :: bytesLE p)
  | .hostTrigMask3 p => .host (0xCC :: bytesLE p)
  | .hostTrigValues3 p => .host (0xCD :: bytesLE p)
  | .hostTrigConfig3 p => .host (0xCE :: bytesLE p)
  | .hostDivisor p => .host (0x80 :: bytesLE p)
  | .hostLegacySize p => .host (0x81 :: bytesLE p)
  | .hostFlags p => .host (0x82 :: bytesLE p)
  | .hostTotalSamples p => .host (0x83 :: bytesLE p)
  | .hostPreTrigger p => .host (0x84 :: bytesLE p)
  | .hostOther b => .host [b]

/-- The decoder over either kind of transaction: the instruction read and the host bytes left over. -/
def decode : Transaction → Option (Instr × List (Option Byte))
  | .op w =>
    match decodeOp w with
    | .instr i => some (i, [])
    | .rejected _ => none
  | .host bytes =>
    match pollCommand (bytes.map some) with
    | (some i, rx) => some (i, rx)
    | (none, _) => none

/-! ## A row of the opcode table as bits -/

/-- The host link's slots for a command whose bits, little-endian in bytes, are `w`: the command byte and, if it takes
one, its four payload bytes. -/
def commandSlots (w : Nat) : List (Option Byte) :=
  let byteAt (k : Nat) : Option Byte := some (BitVec.ofNat 8 (w / 2 ^ (8 * k)))
  if takesPayload (BitVec.ofNat 8 w) then [byteAt 0, byteAt 1, byteAt 2, byteAt 3, byteAt 4] else [byteAt 0]

/-- Whether a table row of `nbits` bits is an operation word (48 bits) rather than a host command (8 bits, or 40 with its
payload) (log 23). -/
def isOpRow (nbits : Nat) : Bool := decide (40 < nbits)

/-- The instruction the decoders read from a table row's bits, the bits above `nbits` being 0. -/
def decodeTableWord (nbits w : Nat) : Option Instr :=
  if isOpRow nbits then
    match decodeOp (BitVec.ofNat 48 (w % 2 ^ nbits)) with
    | .instr i => some i
    | .rejected _ => none
  else (pollCommand (commandSlots (w % 2 ^ nbits))).1

end Sys2Proof
end

