-- ==== Sys2Proof/Machine/Ops.lean ====
section
/-! DEFINITION. The named operations over storage, marks and outputs that the meanings share (spec/00_scope.md R11;
spec/20_memory.md R61, R62; spec/60_exceptions.md R260, R261), the agents (00 R6) and the enabling condition (00 R12). -/

namespace Sys2Proof.Machine

open Sys2Proof.Config

/-! ## Storage (20 R60 to R62) -/

/-- The word in slot `k`, or `none` if the slot has no value. -/
def Memory.read : Memory → Nat → Option Sample
  | [], _ => none
  | (k', w) :: m, k => if k = k' then some w else Memory.read m k

/-- Put `w` in slot `k`, keeping the slots in strictly rising order. -/
def Memory.write (k : Nat) (w : Sample) : Memory → Memory
  | [] => [(k, w)]
  | (k', w') :: m =>
    if k < k' then (k, w) :: (k', w') :: m
    else if k = k' then (k, w) :: m
    else (k', w') :: Memory.write k w m

/-- Every slot is at least `lo` and below `cap`, and slots rise strictly. -/
def Memory.wfFrom (lo cap : Nat) : Memory → Bool
  | [] => true
  | (k, _) :: m => decide (lo ≤ k) && decide (k < cap) && Memory.wfFrom (k + 1) cap m

/-- The canonical form of a storage of `cap` slots. -/
def Memory.wf (cap : Nat) (m : Memory) : Bool := Memory.wfFrom 0 cap m

/-! ## Marks: taking a fault, taking a refusal (60 R260, R261) -/

/-- `raise Fault(r)`: the faulted mark is set with its reason and nothing else changes (60 R260). -/
def raiseFault (r : FaultReason) (s : State) : State := { s with faulted := some r }

/-- `refuse(r)`: the refused mark is set with its reason and nothing else changes (60 R261; log 2). -/
def refuse (r : RefuseReason) (s : State) : State := { s with refused := some r }

/-- The code of a fault reason (60 R260). -/
def faultCode : FaultReason → Nat
  | .startWhileCapturing => 0x01
  | .armDuringTransmit => 0x02
  | .readUnwrittenRing _ => 0x03
  | .readUnwrittenPost _ => 0x04

/-- The code of a refusal reason (60 R261). -/
def refuseCode : RefuseReason → Nat
  | .illegalOp => 0x10
  | .reservedBits => 0x11
  | .reservedRegister => 0x12
  | .noPostSamples => 0x13
  | .readBeforeComplete => 0x14
  | .noSamplesReady => 0x15
  | .rleNoGroups => 0x16
  | .noTransmission => 0x17
  | .negativePreTrigger => 0x20
  | .triggerPinOutOfRange => 0x21
  | .zeroRate => 0x22

/-- The mark's reason of a decode refusal (30 R83). -/
def decodeReason : DecodeError → RefuseReason
  | .reservedBits => .reservedBits
  | .reservedRegister => .reservedRegister

/-! ## Outputs (00 R11; 10 R41) -/

/-- `emitByte` for each byte in order. -/
def emitBytes (bs : List Byte) (s : State) : State := { s with txOut := s.txOut ++ bs }

/-- `emitEvent` for each event in order. -/
def emitEvents (es : List Event) (s : State) : State := { s with events := s.events ++ es }

/-- Bytes sent on the host link (48 R215, R216; log 9). -/
def sendHost (bs : List Byte) (s : State) : State := { s with hostTx := s.hostTx ++ bs }

/-- A host command issues block operations: they wait, in order, for the main sequence to take them (48 R214; log 5). -/
def issueOps (ws : List OpWord) (s : State) : State := { s with issued := s.issued ++ ws }

/-! ## Units, transmission, reads -/

/-- "Halt and clear all sampling units" (40 R114, R115). -/
def haltUnits (s : State) : State :=
  { s with ringEn := false, postEn := false, muxEn := false, watchEn := false, handoff := none }

/-- A transmission ends with no further byte (40 R114; 42 R179). -/
def endTransmission (s : State) : State := { s with txActive := false, txNext := -1 }

/-- The number of words the ring's sampler wrote since ARM, as the counter shows it: BitVec 32 subtraction (10 R33;
40 R115). -/
def writtenSinceArm (s : State) : Nat := (INITIAL_COUNT - s.ringRemaining).toNat

/-- `RingRead(k)` (20 R61). -/
def ringRead (s : State) (k : Nat) : Except FaultReason Sample :=
  match s.ring.read k with
  | some w => .ok w
  | none => .error (.readUnwrittenRing k)

/-- `PostRead(k)` (20 R62). -/
def postRead (s : State) (k : Nat) : Except FaultReason Sample :=
  match s.post.read k with
  | some w => .ok w
  | none => .error (.readUnwrittenPost k)

/-- S(i), the logical sample read (42 R172). -/
def logicalRead (s : State) (i : Int) : Except FaultReason Sample :=
  if 0 ≤ i ∧ i < s.winAvail then
    ringRead s (((s.winFirst + i) % RING_CAP).toNat)
  else if s.winAvail ≤ i ∧ i < s.winAvail + s.lat.post then
    postRead s ((i - s.winAvail).toNat)
  else
    .ok 0

/-! ## Agents and enabling (00 R6, R12) -/

/-- The agent that presents an operation (30 R81). An illegal word has none, so no other operation delays its refusal. -/
def agentOf : Instr → Option Agent
  | .tick _ => some .sampler
  | .cirq => some .completionService
  | .tirq => some .triggerService
  | .cfgwr _ _ | .arm | .abort | .read _ | .txstart | .txunit _ => some .main
  | .illegal0 _ | .illegalA _ | .illegalB _ | .illegalC _ | .illegalD _ | .illegalE _ | .illegalF _ => none
  | .hostReset | .hostRun | .hostSendId | .hostSendMetadata => some .main
  | .hostTrigMask0 _ | .hostTrigValues0 _ | .hostTrigConfig0 _ => some .main
  | .hostTrigMask1 _ | .hostTrigValues1 _ | .hostTrigConfig1 _ => some .main
  | .hostTrigMask2 _ | .hostTrigValues2 _ | .hostTrigConfig2 _ => some .main
  | .hostTrigMask3 _ | .hostTrigValues3 _ | .hostTrigConfig3 _ => some .main
  | .hostDivisor _ | .hostLegacySize _ | .hostFlags _ | .hostTotalSamples _ | .hostPreTrigger _ => some .main
  | .hostOther _ => some .main

/-- Whether an operation has a step now: CIRQ iff compPending, TIRQ iff trigIrqPending, every other operation always
(00 R11, R12; 40 R115, R116). -/
def enabledNow (i : Instr) (s : State) : Bool :=
  if i = .cirq then s.compPending
  else if i = .tirq then s.trigIrqPending
  else true

end Sys2Proof.Machine
end

