-- ==== Sys2Proof/Machine/Flags.lean ====
section
/-! DEFINITION. Computed results that set status: the pre-trigger window (spec/42_readout_transport.md R170), the latched
configuration with its clamps (spec/40_acquisition_control.md R112), a watcher's match (spec/41_sampling_trigger.md R144)
and the busy flag (spec/10_state.md R27, R43). -/

namespace Sys2Proof.Machine

open Sys2Proof.Config

/-- The busy flag, the source's `is_capturing` (10 R27, R43). -/
def busy (s : State) : Bool := decide (s.acq = .capturing)

/-- Window(written, pre) = (first, avail) (42 R170). -/
def window (written pre : Nat) : Nat × Nat :=
  let f : Int := ((written % RING_CAP : Nat) : Int) - (pre : Int)
  if f < 0 ∧ written < RING_CAP then (0, written) else ((f % RING_CAP).toNat, pre)

/-- Latch: the configuration ARM takes, or `none` when no post-trigger sample remains (40 R112). -/
def latch (s : State) : Option Latched :=
  let pre := min s.cfgPre.toNat RING_CAP
  if s.cfgTotal.toNat < pre + 1 then none
  else
    let trig : Vector (BitVec 8) 4 := s.cfgTrig.map (fun d => d.extractLsb' 0 8)
    some
      { total := s.cfgTotal.toNat
        pre := pre
        post := min (s.cfgTotal.toNat - pre) POST_CAP
        trig := trig
        ntrig := trig.toList.countP trigEn
        g0 := s.cfgMode.getLsbD 0
        g1 := s.cfgMode.getLsbD 1
        rle := s.cfgMode.getLsbD 2 }

/-- Match(kind, reference, level) (41 R144). -/
def watchMatch : MatchKind → Option Bool → Bool → Bool
  | .levelHigh, _, b => b
  | .levelLow, _, b => !b
  | .edgeHigh, r, b => decide (r = some false) && b
  | .edgeLow, r, b => decide (r = some true) && !b

/-- Whether the watcher of descriptor `d` with reference `r` is satisfied by snapshot `g` (41 R145). -/
def watcherFires (g : Word32) (d : BitVec 8) (r : Option Bool) : Bool :=
  trigEn d && watchMatch (trigKind d) r (pinLevel g (trigPin d))

/-- The reference level a watcher is left with: an enabled one has seen the pin's level (41 R145). -/
def nextRef (g : Word32) (d : BitVec 8) (r : Option Bool) : Option Bool :=
  if trigEn d then some (pinLevel g (trigPin d)) else r

/-- Whether any enabled watcher is satisfied: the multiplexer's OR (41 R145). -/
def anyFires (g : Word32) (s : State) : Bool :=
  watcherFires g s.lat.trig[0] s.ref[0] || watcherFires g s.lat.trig[1] s.ref[1] ||
  watcherFires g s.lat.trig[2] s.ref[2] || watcherFires g s.lat.trig[3] s.ref[3]

/-- The reference levels after the watchers have looked at `g` (41 R145). -/
def nextRefs (g : Word32) (s : State) : Vector (Option Bool) 4 :=
  #v[nextRef g s.lat.trig[0] s.ref[0], nextRef g s.lat.trig[1] s.ref[1],
     nextRef g s.lat.trig[2] s.ref[2], nextRef g s.lat.trig[3] s.ref[3]]

end Sys2Proof.Machine
end

