-- ==== Sys2Proof/Machine/Control.lean ====
section
/-! DEFINITION. Acquisition control: CFGWR, ARM, ABORT, CIRQ, TIRQ (spec/40_acquisition_control.md), and the (illegal)
operation words (spec/30_encoding.md R83). -/

namespace Sys2Proof.Machine

open Sys2Proof.Config
open Host (Outcome)

/-- CFGWR: each register keeps its bits (40 R110; 10 R22). A register number of 7 or more is refused (30 R83). -/
def execCfgwr (r : BitVec 8) (v : Word32) (s : State) : Outcome State Fault Refusal :=
  match r.toNat with
  | 0 => .next { s with cfgTotal := v }
  | 1 => .next { s with cfgPre := v }
  | 2 => .next { s with cfgTrig := s.cfgTrig.set 0 ((v.extractLsb' 0 8).setWidth 32) }
  | 3 => .next { s with cfgTrig := s.cfgTrig.set 1 ((v.extractLsb' 0 8).setWidth 32) }
  | 4 => .next { s with cfgTrig := s.cfgTrig.set 2 ((v.extractLsb' 0 8).setWidth 32) }
  | 5 => .next { s with cfgTrig := s.cfgTrig.set 3 ((v.extractLsb' 0 8).setWidth 32) }
  | 6 => .next { s with cfgMode := (v.extractLsb' 0 3).setWidth 32 }
  | _ => .next (refuse .reservedRegister s)

/-- What an ARM with latched configuration `l` writes (40 R111, R113). -/
def startCapture (l : Latched) (s : State) : State :=
  let gated : Bool := decide (0 < l.ntrig)
  { s with
    lat := l
    ringRemaining := INITIAL_COUNT
    postCount := 0
    ringEn := true
    muxEn := gated
    watchEn := gated
    postEn := !gated
    handoff := none
    ref := #v[EDGE_REF_INIT, EDGE_REF_INIT, EDGE_REF_INIT, EDGE_REF_INIT]
    compPending := false
    dataValid := false
    samplesReady := false
    underrun := false
    winFirst := 0
    winAvail := 0
    acq := .capturing }

/-- ARM (40 R111), its checks in the order of 60 R263. -/
def execArm (s : State) : Outcome State Fault Refusal :=
  if s.acq = .capturing then .next (raiseFault .startWhileCapturing s)
  else if s.txActive then .next (raiseFault .armDuringTransmit s)
  else
    match latch s with
    | none => .next (refuse .noPostSamples s)
    | some l => .next (startCapture l s)

/-- The capture half of ABORT (40 R114): halt the units and defuse a completion that raced in; no event. -/
def abortCapture (s : State) : State :=
  if s.acq = .capturing then { haltUnits s with compPending := false, acq := .idle } else s

/-- The transmission half of ABORT (40 R114). -/
def abortTransmission (s : State) : State := if s.txActive then endTransmission s else s

/-- ABORT always succeeds (40 R114). -/
def execAbort (s : State) : Outcome State Fault Refusal := .next (abortTransmission (abortCapture s))

/-- What CIRQ does when it is enabled (40 R115). -/
def completeCapture (s : State) : State :=
  let win := window (writtenSinceArm s) s.lat.pre
  emitEvents [.onComplete win.2]
    { haltUnits s with
      compPending := false
      winFirst := win.1
      winAvail := win.2
      underrun := decide (win.2 < s.lat.pre)
      dataValid := true
      samplesReady := true
      acq := .idle }

/-- CIRQ, enabled iff compPending (40 R115). -/
def execCirq (s : State) : Outcome State Fault Refusal :=
  if s.compPending then .next (completeCapture s) else .refused (.notEnabled "CIRQ")

/-- TIRQ, enabled iff trigIrqPending (40 R116). -/
def execTirq (s : State) : Outcome State Fault Refusal :=
  if s.trigIrqPending then .next (emitEvents [.trigNotify] { s with trigIrqPending := false })
  else .refused (.notEnabled "TIRQ")

/-! ## Illegal operation words (30 R83): refused with IllegalOp, the state otherwise unchanged -/

/-- The word's OP is one the map does not use (30 R83). -/
def illegalWord (s : State) : Outcome State Fault Refusal := .next (refuse .illegalOp s)

/-- OP 0x0 (30 R83). -/
def execIllegal0 (s : State) : Outcome State Fault Refusal := illegalWord s
/-- OP 0xA (30 R83). -/
def execIllegalA (s : State) : Outcome State Fault Refusal := illegalWord s
/-- OP 0xB (30 R83). -/
def execIllegalB (s : State) : Outcome State Fault Refusal := illegalWord s
/-- OP 0xC (30 R83). -/
def execIllegalC (s : State) : Outcome State Fault Refusal := illegalWord s
/-- OP 0xD (30 R83). -/
def execIllegalD (s : State) : Outcome State Fault Refusal := illegalWord s
/-- OP 0xE (30 R83). -/
def execIllegalE (s : State) : Outcome State Fault Refusal := illegalWord s
/-- OP 0xF (30 R83). -/
def execIllegalF (s : State) : Outcome State Fault Refusal := illegalWord s

end Sys2Proof.Machine
end

