-- ==== Sys2Proof/Machine/FrontEnd.lean ====
section
/-! DEFINITION. The front-end's functions: stage translation (spec/48_host_frontend.md R230 to R237), rate and clock
selection (48 R240, R245), the operations a run command issues (48 R214), the ID and metadata bytes (48 R215, R216). -/

namespace Sys2Proof.Machine

open Sys2Proof.Config

/-- One engine trigger a stage asks for: its pin, before the range check of 48 R237, and its kind. -/
structure Candidate where
  pin  : Nat
  kind : MatchKind
  deriving DecidableEq, Repr

/-- Eligible(s) (48 R231). -/
def eligible (r : StageRegs) : Bool :=
  decide (r.mask ≠ 0) && stageStart r.config && decide (stageLevel r.config = 0)

/-- The kind of a parallel candidate from its value bit and the edge override (48 R232). -/
def parallelKind (value edge : Bool) : MatchKind :=
  if value then (if edge then .edgeHigh else .levelHigh) else (if edge then .edgeLow else .levelLow)

/-- Candidates of a parallel stage: the set mask bits in ascending channel order (48 R232). -/
def parallelCandidates (r : StageRegs) : List Candidate :=
  ((List.range 32).filter (fun c => r.mask.getLsbD c)).map
    (fun c => { pin := channelPin c, kind := parallelKind (r.values.getLsbD c) EDGE_OVERRIDE })

/-- Candidates of a serial stage (48 R233, R234, R235). -/
def serialCandidates (r : StageRegs) : List Candidate :=
  let pin := channelPin (stageChannel r.config)
  if r.mask = 0b11 then
    match r.values.getLsbD 0, r.values.getLsbD 1 with
    | false, true => [{ pin := pin, kind := .edgeHigh }]
    | true, false => [{ pin := pin, kind := .edgeLow }]
    | _, _ => []
  else if r.mask = 0b1 then
    [{ pin := pin, kind := if r.values.getLsbD 0 then .levelHigh else .levelLow }]
  else []

/-- Candidates(s) of an eligible stage, none of another (48 R230 to R235). -/
def stageCandidates (r : StageRegs) : List Candidate :=
  if eligible r then
    if stageSerial r.config then serialCandidates r else parallelCandidates r
  else []

/-- Every candidate with its stage number, stages ascending (48 R230). -/
def allCandidates (fe : FrontEnd) : List (Nat × Candidate) :=
  (stageCandidates fe.stages[0]).map (fun c => (0, c)) ++ (stageCandidates fe.stages[1]).map (fun c => (1, c)) ++
  (stageCandidates fe.stages[2]).map (fun c => (2, c)) ++ (stageCandidates fe.stages[3]).map (fun c => (3, c))

/-- Translate: the first MAX_TRIG candidates, and one drop event for each one after them (48 R230, R236); `none` if a
candidate's pin is beyond the snapshot (48 R237; log 14). -/
def translateStages (fe : FrontEnd) : Option (List Candidate × List Event) :=
  let all := allCandidates fe
  if all.any (fun c => decide (31 < c.2.pin)) then none
  else some ((all.take MAX_TRIG).map Prod.snd, (all.drop MAX_TRIG).map (fun c => Event.diagTrigDrop c.1))

/-- Rate(divisor, demux) (48 R245). -/
def rateOf (divisor : Word32) (demux : Bool) : Rat :=
  (if demux then 2 else 1) * BASE_CLOCK_RATE / ((divisor.toNat + 1 : Nat) : Rat)

/-- The clamp of the divisor (48 R240). -/
def clampDiv (d : Rat) : Rat := if d ≤ DIV_MAX then d else DIV_MAX

/-- SelectClock(rate), `none` when the rate is not positive (48 R240). -/
def selectClock (rate : Rat) : Option ClockSel :=
  if rate ≤ 0 then none
  else if RATE_THRESHOLD < rate then
    let d := clampDiv ((FAST_CLK : Rat) / rate)
    some { clk := FAST_CLK, div := d, quant := DIV_QUANT d }
  else
    let d := clampDiv ((SLOW_CLK : Rat) / rate / 32 / 10)
    some { clk := SLOW_CLK, div := d, quant := DIV_QUANT d }

/-- A sample count as the 32-bit operand of a CFGWR: the count where it fits, a free value where the spec states none
(48 R214; 30 R82; log 13). -/
def countOperand (n : Int) : Word32 :=
  if 0 ≤ n ∧ n < 2 ^ 32 then BitVec.ofNat 32 n.toNat else OVERSIZE_COUNT n

/-- desc[j]: the j-th trigger's descriptor, 0 when there are fewer (48 R214). -/
def descriptorAt (ts : List Candidate) (j : Nat) : Word32 :=
  match ts[j]? with
  | some t => (descriptor t.kind t.pin).setWidth 32
  | none => 0

/-- The block operations a run command issues, in order (48 R214). -/
def runOps (fe : FrontEnd) (ts : List Candidate) : List OpWord :=
  [opWord 0x1 0 (countOperand fe.totalSamples), opWord 0x1 1 (countOperand fe.preTriggerSamples),
   opWord 0x1 2 (descriptorAt ts 0), opWord 0x1 3 (descriptorAt ts 1),
   opWord 0x1 4 (descriptorAt ts 2), opWord 0x1 5 (descriptorAt ts 3),
   opWord 0x1 6 (modeWord (flagG0 fe.flags) (flagG1 fe.flags) (flagRle fe.flags)),
   opWord 0x2 0 0]

/-- The ID response (48 R215). -/
def idResponse : List Byte := [ID_BYTES 0, ID_BYTES 1, ID_BYTES 2, ID_BYTES 3]

/-- A metadata field's value bytes: a string with its null, a number in 4 bytes little-endian (48 R216). -/
def metaValueBytes : MetaValue → List Byte
  | .str bytes => bytes ++ [0]
  | .num v => bytesLE v

/-- The metadata fields in the source's order (48 R216). -/
def metaFields : List MetaField :=
  [.deviceName, .firmwareVersion, .sampleMemory, .maxSampleRate, .channelCount, .protocolVersion]

/-- The metadata response: tag and value of each field, then a zero tag byte (48 R216). -/
def metadataResponse : List Byte :=
  metaFields.flatMap (fun f => META_TAG f :: metaValueBytes (META_VALUE f)) ++ [0]

end Sys2Proof.Machine
end

