-- ==== Sys2Proof/Machine/HostCommands.lean ====
section
/-! DEFINITION. The meanings of the host commands (spec/48_host_frontend.md R213 to R225): the front-end state each
writes and the block operations it issues. -/

namespace Sys2Proof.Machine

open Sys2Proof.Config
open Host (Outcome)

/-- The operations a host reset issues: ABORT; and, when it is polled during a transmission, the pending TXUNIT with
c = 1 before it (48 R213; 42 R180; log 6). -/
def resetOps (s : State) : List OpWord :=
  (if s.txActive then [opWord 0x9 1 0] else []) ++ [opWord 0x3 0 0]

/-- 0x00 reset (48 R213). -/
def execHostReset (s : State) : Outcome State Fault Refusal :=
  .next (issueOps (resetOps s)
    { s with
      fe := { s.fe with
        divisor := 0, flags := 0
        stages := #v[StageRegs.zero, StageRegs.zero, StageRegs.zero, StageRegs.zero] } })

/-- 0x01 run (48 R214): translate, select the clock, issue the configuration writes and ARM (log 5, log 24, log 27). -/
def execHostRun (s : State) : Outcome State Fault Refusal :=
  match translateStages s.fe with
  | none => .next (refuse .triggerPinOutOfRange s)
  | some (ts, drops) =>
    match selectClock s.fe.rate with
    | none => .next (refuse .zeroRate s)
    | some sel => .next (issueOps (runOps s.fe ts) (emitEvents drops { s with clockSel := some sel }))

/-- 0x02 send ID (48 R215). -/
def execHostSendId (s : State) : Outcome State Fault Refusal := .next (sendHost idResponse s)

/-- 0x04 send metadata (48 R216). -/
def execHostSendMetadata (s : State) : Outcome State Fault Refusal := .next (sendHost metadataResponse s)

/-! ## Stage registers -/

/-- Change stage `j`'s registers and nothing else. -/
def updateStage (j : Fin 4) (f : StageRegs → StageRegs) (s : State) : State :=
  { s with fe := { s.fe with stages := s.fe.stages.set j (f s.fe.stages[j]) } }

/-- `stage[j].mask <- P` (48 R217). -/
def setMask (j : Fin 4) (p : Word32) (s : State) : Outcome State Fault Refusal :=
  .next (updateStage j (fun r => { r with mask := p }) s)
/-- `stage[j].values <- P` (48 R218). -/
def setValues (j : Fin 4) (p : Word32) (s : State) : Outcome State Fault Refusal :=
  .next (updateStage j (fun r => { r with values := p }) s)
/-- `stage[j].config <- P` (48 R219). -/
def setConfig (j : Fin 4) (p : Word32) (s : State) : Outcome State Fault Refusal :=
  .next (updateStage j (fun r => { r with config := p }) s)

/-- 0xC0 (48 R217). -/
def execHostTrigMask0 (p : Word32) (s : State) : Outcome State Fault Refusal := setMask 0 p s
/-- 0xC1 (48 R218). -/
def execHostTrigValues0 (p : Word32) (s : State) : Outcome State Fault Refusal := setValues 0 p s
/-- 0xC2 (48 R219). -/
def execHostTrigConfig0 (p : Word32) (s : State) : Outcome State Fault Refusal := setConfig 0 p s
/-- 0xC4 (48 R217). -/
def execHostTrigMask1 (p : Word32) (s : State) : Outcome State Fault Refusal := setMask 1 p s
/-- 0xC5 (48 R218). -/
def execHostTrigValues1 (p : Word32) (s : State) : Outcome State Fault Refusal := setValues 1 p s
/-- 0xC6 (48 R219). -/
def execHostTrigConfig1 (p : Word32) (s : State) : Outcome State Fault Refusal := setConfig 1 p s
/-- 0xC8 (48 R217). -/
def execHostTrigMask2 (p : Word32) (s : State) : Outcome State Fault Refusal := setMask 2 p s
/-- 0xC9 (48 R218). -/
def execHostTrigValues2 (p : Word32) (s : State) : Outcome State Fault Refusal := setValues 2 p s
/-- 0xCA (48 R219). -/
def execHostTrigConfig2 (p : Word32) (s : State) : Outcome State Fault Refusal := setConfig 2 p s
/-- 0xCC (48 R217). -/
def execHostTrigMask3 (p : Word32) (s : State) : Outcome State Fault Refusal := setMask 3 p s
/-- 0xCD (48 R218). -/
def execHostTrigValues3 (p : Word32) (s : State) : Outcome State Fault Refusal := setValues 3 p s
/-- 0xCE (48 R219). -/
def execHostTrigConfig3 (p : Word32) (s : State) : Outcome State Fault Refusal := setConfig 3 p s

/-! ## Divisor, flags and sizes -/

/-- 0x80 clock divisor (48 R220). -/
def execHostDivisor (p : Word32) (s : State) : Outcome State Fault Refusal :=
  .next { s with fe := { s.fe with divisor := p } }

/-- 0x81 legacy combined size (48 R221): a negative pre-trigger size is refused, the totals then unchanged (log 15). -/
def execHostLegacySize (p : Word32) (s : State) : Outcome State Fault Refusal :=
  let total : Int := (lowWord p : Int) * 4 + 4
  let pre : Int := total - ((highWord p : Int) * 4 + 4)
  if pre < 0 then .next (refuse .negativePreTrigger s)
  else .next { s with fe := { s.fe with totalSamples := total, preTriggerSamples := pre } }

/-- 0x82 flags (48 R222): the rate comes from the divisor stored before. -/
def execHostFlags (p : Word32) (s : State) : Outcome State Fault Refusal :=
  .next { s with fe := { s.fe with flags := p, rate := rateOf s.fe.divisor (flagDemux p) } }

/-- 0x83 total sample count (48 R223). -/
def execHostTotalSamples (p : Word32) (s : State) : Outcome State Fault Refusal :=
  .next { s with fe := { s.fe with totalSamples := sizeXform p.toNat } }

/-- 0x84 pre-trigger size (48 R224). -/
def execHostPreTrigger (p : Word32) (s : State) : Outcome State Fault Refusal :=
  let pre : Int := s.fe.totalSamples - sizeXform p.toNat
  if pre < 0 then .next (refuse .negativePreTrigger s)
  else .next { s with fe := { s.fe with preTriggerSamples := pre } }

/-- Any other byte: logged by the debug collaborator, otherwise ignored (48 R225; log 28). -/
def execHostOther (s : State) : Outcome State Fault Refusal := .next s

end Sys2Proof.Machine
end

