-- ==== Sys2Proof/Machine/Readout.lean ====
section
/-! DEFINITION. READ, TXSTART and TXUNIT, the transport encoder (spec/42_readout_transport.md R172 to R183). -/

namespace Sys2Proof.Machine

open Sys2Proof.Config
open Host (Outcome)

/-- READ (42 R176): the value returned is kept in `readResult` (log 8). -/
def execRead (i : Word32) (s : State) : Outcome State Fault Refusal :=
  if s.dataValid then
    match logicalRead s i.toNat with
    | .ok v => .next { s with readResult := some v }
    | .error r => .next (raiseFault r s)
  else .next (refuse .readBeforeComplete s)

/-- What TXSTART does when nothing refuses it (42 R178). -/
def startTransmission (s : State) : State :=
  let s' : State := { s with samplesReady := false, txActive := true, txNext := (s.lat.total : Int) - 1 }
  if s.underrun then emitEvents [.diagUnderrun s.lat.pre s.winAvail] s' else s'

/-- TXSTART (42 R178), its checks in the order of 60 R263. -/
def execTxstart (s : State) : Outcome State Fault Refusal :=
  if s.samplesReady then
    if s.lat.rle = true ∧ groupCount s.lat = 0 then .next (refuse .rleNoGroups s)
    else .next (startTransmission s)
  else .next (refuse .noSamplesReady s)

/-- RawUnit (42 R181). -/
def rawUnit (s : State) : Except FaultReason State :=
  match logicalRead s s.txNext with
  | .ok v => .ok { emitBytes (rawBytes s.lat v) s with txNext := s.txNext - 1 }
  | .error r => .error r

/-- The run-extending loop of RleUnit (42 R182): from length `n` with next index `j`, at most `left` samples more; the
length and the next index when it ends. -/
def extendRun (s : State) (v : Sample) : Nat → Nat → Int → Except FaultReason (Nat × Int)
  | 0, n, j => .ok (n, j)
  | left + 1, n, j =>
    if j < 0 then .ok (n, j)
    else
      match logicalRead s j with
      | .error r => .error r
      | .ok x => if x &&& groupMask s.lat = v then extendRun s v left (n + 1) (j - 1) else .ok (n, j)

/-- RleUnit (42 R182). -/
def rleUnit (s : State) : Except FaultReason State :=
  match logicalRead s s.txNext with
  | .error r => .error r
  | .ok x =>
    let v := x &&& groupMask s.lat
    match extendRun s v (maxRun s.lat - 1) 1 (s.txNext - 1) with
    | .error r => .error r
    | .ok (n, j) => .ok { emitBytes (runHeader s.lat n ++ rawBytes s.lat v) s with txNext := j }

/-- One unit of output in the latched encoding (42 R179, R180). -/
def oneUnit (s : State) : Except FaultReason State := if s.lat.rle then rleUnit s else rawUnit s

/-- The transmission ends when the cursor is below the lower bound (42 R179). -/
def finishUnit (s : State) : State := if s.txNext < 0 then { s with txActive := false } else s

/-- TXUNIT (42 R179): `c` is the cancel input. -/
def execTxunit (c : Bool) (s : State) : Outcome State Fault Refusal :=
  if s.txActive then
    if c then .next (endTransmission s)
    else
      match oneUnit s with
      | .ok t => .next (finishUnit t)
      | .error r => .next (raiseFault r s)
  else .next (refuse .noTransmission s)

end Sys2Proof.Machine
end

