-- ==== Sys2Proof/Machine/Sampling.lean ====
section
/-! DEFINITION. The sampler's operation TICK and its sub-steps (spec/41_sampling_trigger.md R141 to R147). -/

namespace Sys2Proof.Machine

open Sys2Proof.Config
open Host (Outcome)

/-- The ring slot the next word goes to (10 R33). -/
def ringPos (s : State) : Nat := writtenSinceArm s % RING_CAP

/-- RingStep (41 R142). -/
def ringStep (w : Sample) (s : State) : State :=
  if s.ringEn then
    { s with ring := s.ring.write (ringPos s) w, ringRemaining := s.ringRemaining - 1 }
  else s

/-- PostStep (41 R143). -/
def postStep (w : Sample) (s : State) : State :=
  if s.postEn then
    let full : Bool := decide (s.postCount + 1 = s.lat.post)
    { s with
      post := s.post.write s.postCount w
      postCount := s.postCount + 1
      postEn := !full
      compPending := full || s.compPending }
  else s

/-- The countdown of an earlier fire (41 R141). -/
def countdownStep (s : State) : State :=
  match s.handoff with
  | some (n + 1) => { s with handoff := some n }
  | _ => s

/-- TriggerStep (41 R145). -/
def triggerStep (g : Word32) (s : State) : State :=
  if s.watchEn ∧ s.muxEn ∧ s.handoff = none then
    if anyFires g s then
      { s with ref := nextRefs g s, handoff := some HANDOFF_DELAY, trigIrqPending := true }
    else { s with ref := nextRefs g s }
  else s

/-- HandoffStep (41 R146). -/
def handoffStep (s : State) : State :=
  if s.handoff = some 0 then
    { s with ringEn := false, postEn := true, muxEn := false, watchEn := false, handoff := none }
  else s

/-- One sampling-clock period while a capture is armed (41 R141). -/
def sampleTick (g : Word32) (s : State) : State :=
  handoffStep (triggerStep g (countdownStep (postStep (sampleWord g) (ringStep (sampleWord g) s))))

/-- TICK (41 R141): no effect while Idle (41 R147). A post write beyond the buffer has no slot to go to (20 R62;
log 16). -/
def execTick (g : Word32) (s : State) : Outcome State Fault Refusal :=
  if s.acq = .idle then .next s
  else if s.postEn = true ∧ POST_CAP ≤ s.postCount then .fault (.noSuchPostSlot s.postCount)
  else .next (sampleTick g s)

end Sys2Proof.Machine
end

