-- ==== Sys2Proof/Machine/Dispatch.lean ====
section
/-! DEFINITION. One arm per constructor of Instr (spec/opcode_table.json). -/

namespace Sys2Proof.Machine

def exec (i : Instr) (s : State) : Host.Outcome State Fault Refusal :=
  match i with
  | .cfgwr r v => Sys2Proof.Machine.execCfgwr r v s
  | .arm => Sys2Proof.Machine.execArm s
  | .abort => Sys2Proof.Machine.execAbort s
  | .tick g => Sys2Proof.Machine.execTick g s
  | .cirq => Sys2Proof.Machine.execCirq s
  | .tirq => Sys2Proof.Machine.execTirq s
  | .read x => Sys2Proof.Machine.execRead x s
  | .txstart => Sys2Proof.Machine.execTxstart s
  | .txunit c => Sys2Proof.Machine.execTxunit c s
  | .illegal0 _ => Sys2Proof.Machine.execIllegal0 s
  | .illegalA _ => Sys2Proof.Machine.execIllegalA s
  | .illegalB _ => Sys2Proof.Machine.execIllegalB s
  | .illegalC _ => Sys2Proof.Machine.execIllegalC s
  | .illegalD _ => Sys2Proof.Machine.execIllegalD s
  | .illegalE _ => Sys2Proof.Machine.execIllegalE s
  | .illegalF _ => Sys2Proof.Machine.execIllegalF s
  | .hostReset => Sys2Proof.Machine.execHostReset s
  | .hostRun => Sys2Proof.Machine.execHostRun s
  | .hostSendId => Sys2Proof.Machine.execHostSendId s
  | .hostSendMetadata => Sys2Proof.Machine.execHostSendMetadata s
  | .hostTrigMask0 p => Sys2Proof.Machine.execHostTrigMask0 p s
  | .hostTrigValues0 p => Sys2Proof.Machine.execHostTrigValues0 p s
  | .hostTrigConfig0 p => Sys2Proof.Machine.execHostTrigConfig0 p s
  | .hostTrigMask1 p => Sys2Proof.Machine.execHostTrigMask1 p s
  | .hostTrigValues1 p => Sys2Proof.Machine.execHostTrigValues1 p s
  | .hostTrigConfig1 p => Sys2Proof.Machine.execHostTrigConfig1 p s
  | .hostTrigMask2 p => Sys2Proof.Machine.execHostTrigMask2 p s
  | .hostTrigValues2 p => Sys2Proof.Machine.execHostTrigValues2 p s
  | .hostTrigConfig2 p => Sys2Proof.Machine.execHostTrigConfig2 p s
  | .hostTrigMask3 p => Sys2Proof.Machine.execHostTrigMask3 p s
  | .hostTrigValues3 p => Sys2Proof.Machine.execHostTrigValues3 p s
  | .hostTrigConfig3 p => Sys2Proof.Machine.execHostTrigConfig3 p s
  | .hostDivisor p => Sys2Proof.Machine.execHostDivisor p s
  | .hostLegacySize p => Sys2Proof.Machine.execHostLegacySize p s
  | .hostFlags p => Sys2Proof.Machine.execHostFlags p s
  | .hostTotalSamples p => Sys2Proof.Machine.execHostTotalSamples p s
  | .hostPreTrigger p => Sys2Proof.Machine.execHostPreTrigger p s
  | .hostOther _ => Sys2Proof.Machine.execHostOther s

end Sys2Proof.Machine
end

