-- ==== Sys2Proof/Machine/Fetch.lean ====
section
/-! DEFINITION. Who moves next and with what: the environment's turns, the operations a host command issued, and the host
link (spec/00_scope.md R6, R12; spec/48_host_frontend.md R212, R214; log 3, log 4, log 5). -/

namespace Sys2Proof.Machine

/-- What the next step is to do. -/
inductive Fetched
  /-- The state is faulted, and final (60 R260). -/
  | stopped (r : FaultReason)
  /-- No operation is performed; the state after it is `s'` (an idle block, an empty poll, a block reset). -/
  | quiet (s' : State)
  /-- A word that decode refuses, taken from the state `s'` is left with (30 R83). -/
  | rejected (e : DecodeError) (s' : State)
  /-- Instruction `i`, taken from the state `s'` is left with. -/
  | run (i : Instr) (s' : State)
  deriving DecidableEq, Repr

/-- A word whose operation is not enabled has no step; every other word has one (00 R12; 30 R83). -/
def wordEnabled (w : OpWord) (s : State) : Bool :=
  match decodeOp w with
  | .instr i => enabledNow i s
  | .rejected _ => true

/-- Whether a turn can be taken now. -/
def turnEnabled (s : State) : Turn → Bool
  | .op w => wordEnabled w s
  | .poll => true
  | .issuedOp => !s.issued.isEmpty
  | .blockReset => true

/-- The first turn that can be taken, and the turns left: a turn that is not enabled waits (00 R12; log 3). -/
def takeTurn (s : State) : List Turn → Option (Turn × List Turn)
  | [] => none
  | t :: ts =>
    if turnEnabled s t then some (t, ts)
    else
      match takeTurn s ts with
      | some (u, us) => some (u, t :: us)
      | none => none

/-- Whether a turn is the main sequence's (00 R6). The spec does not say whose turn a word refused at decode is: the model
gives it to no agent, whatever agent 30 R81 lists beside its OP, so it waits behind no issued operation (DESIGN CHOICE,
log 29). -/
def turnOfMain : Turn → Bool
  | .op w =>
    match decodeOp w with
    | .instr i => decide (agentOf i = some .main)
    | .rejected _ => false
  | .poll => true
  | .issuedOp => true
  | .blockReset => false

/-- The word `w`, the state being `s'` once it is taken and `s` if its agent has to wait. -/
def fetchWord (w : OpWord) (s' s : State) : Fetched :=
  match decodeOp w with
  | .rejected e => .rejected e s'
  | .instr i => if enabledNow i s then .run i s' else .quiet s

/-- The next operation a host command issued; an idle block where there is none. -/
def fetchIssued (s' s : State) : Fetched :=
  match s.issued with
  | [] => .quiet s
  | w :: ws => fetchWord w { s' with issued := ws } s

/-- One poll of the host link (48 R212): no command, or a command to run. -/
def fetchPoll (s : State) : Fetched :=
  match pollCommand s.hostRx with
  | (some i, rx) => .run i { s with hostRx := rx }
  | (none, rx) => .quiet { s with hostRx := rx }

/-- A block reset: everything takes its reset value; what the outside world has still to present stays (70 R290;
log 25). -/
def resetBlock (ts : List Turn) (s : State) : State := { State.reset with turns := ts, hostRx := s.hostRx }

/-- A turn of the environment, `ts` being the turns left after it. While operations that a host command issued wait, a
turn of the main sequence goes to the first of them, and the turn itself waits (log 5). -/
def fetchTurn (t : Turn) (ts : List Turn) (s : State) : Fetched :=
  match t with
  | .blockReset => .quiet (resetBlock ts s)
  | .issuedOp => fetchIssued { s with turns := ts } s
  | .poll => if s.issued.isEmpty then fetchPoll { s with turns := ts } else fetchIssued s s
  | .op w =>
    if turnOfMain (.op w) = true ∧ s.issued.isEmpty = false then fetchIssued s s
    else fetchWord w { s with turns := ts } s

/-- What the next step is to do. In a faulted state nothing but a block reset goes on (60 R260; 70 R290). With no turn to
take, the main sequence goes on with the operations issued. -/
def fetch (s : State) : Fetched :=
  match s.faulted with
  | some r =>
    match s.turns with
    | .blockReset :: ts => .quiet (resetBlock ts s)
    | _ => .stopped r
  | none =>
    match takeTurn s s.turns with
    | some (t, ts) => fetchTurn t ts s
    | none => fetchIssued s s

/-- CIRQ and TIRQ have a step only while their notification is pending (40 R115, R116): presenting one for the very next
step raises it (log 4). -/
def pendFor (i : Option Instr) (s : State) : State :=
  match i with
  | some .cirq => { s with compPending := true }
  | some .tirq => { s with trigIrqPending := true }
  | _ => s

/-- Present one instruction for the very next step: its word as the first turn, or its bytes as the first on the host link
with a poll as the first turn; operations still issued would go before it and are dropped (log 4). -/
def presentRow (nbits w : Nat) (s : State) : State :=
  if isOpRow nbits then
    pendFor (decodeTableWord nbits w)
      { s with turns := .op (BitVec.ofNat 48 (w % 2 ^ nbits)) :: s.turns, issued := [] }
  else
    { s with turns := .poll :: s.turns, hostRx := commandSlots (w % 2 ^ nbits) ++ s.hostRx, issued := [] }

end Sys2Proof.Machine
end

