-- ==== Sys2Proof/Machine/Step.lean ====
section
/-! DEFINITION. One step of the machine: what `fetch` gives is carried out (spec/20_memory.md R70: every operation is one
atomic step). -/

namespace Sys2Proof.Machine

open Host (Outcome)

/-- One step. -/
def step (s : State) : Outcome State Fault Refusal :=
  match fetch s with
  | .stopped r => .fault (.faultedFinal r)
  | .quiet s' => .next s'
  | .rejected e s' => .next (refuse (decodeReason e) s')
  | .run i s' => exec i s'

/-- `s` with the instruction of a table row presented, so that the next step runs it (log 4, log 23). -/
def State.withFetchWord (s : State) (nbits w : Nat) : State := presentRow nbits w s

end Sys2Proof.Machine
end

