-- ==== Sys2Proof/Machine/Asm.lean ====
section
/-! DEFINITION. The textual syntax of operations and the pseudo-operations (spec/30_encoding.md R85, R86). A line is a list
of characters; the result is the operations it stands for (log 26). -/

namespace Sys2Proof.Machine

/-! ## Pseudo-operations (30 R86) -/

/-- `TRIG j, kind, pin` is `CFGWR 2+j, 0x80 | (k << 5) | pin`. -/
def pseudoTrig (j : Nat) (k : MatchKind) (pin : Nat) : Instr :=
  .cfgwr (BitVec.ofNat 8 (2 + j)) ((descriptor k pin).setWidth 32)

/-- `MODE g0, g1, rle` is `CFGWR 6, g0 | (g1 << 1) | (rle << 2)`. -/
def pseudoMode (g0 g1 rle : Bool) : Instr := .cfgwr 6 (modeWord g0 g1 rle)

/-- `TXUNIT` with no operand is `TXUNIT 0`. -/
def pseudoTxunit : Instr := .txunit false

/-- `TICK*n g` is n lines `TICK g`. -/
def pseudoTicks (n : Nat) (g : Word32) : List Instr := List.replicate n (.tick g)

/-! ## Tokens -/

/-- A word between spaces, or a comma. -/
inductive Token
  | word (cs : List Char)
  | comma
  deriving DecidableEq, Repr

/-- The word read so far, if any. -/
def flushWord (cur : List Char) : List Token := if cur.isEmpty then [] else [.word cur]

/-- Words are separated by blanks and commas; `cur` is the word being read. -/
def tokens : List Char → List Char → List Token
  | cur, [] => flushWord cur
  | cur, c :: cs =>
    if c = ' ' ∨ c = '\t' then flushWord cur ++ tokens [] cs
    else if c = ',' then flushWord cur ++ .comma :: tokens [] cs
    else tokens (cur ++ [c]) cs

/-! ## Operands -/

/-- The value of a digit in a base of at most 16. -/
def digitOf (base : Nat) (c : Char) : Option Nat :=
  let n := c.toNat
  let d : Nat :=
    if 48 ≤ n ∧ n ≤ 57 then n - 48
    else if 97 ≤ n ∧ n ≤ 102 then n - 87
    else if 65 ≤ n ∧ n ≤ 70 then n - 55
    else 16
  if d < base then some d else none

/-- Digits of a base, most significant first, after the value `acc`. -/
def digits (base : Nat) : Nat → List Char → Option Nat
  | acc, [] => some acc
  | acc, c :: cs =>
    match digitOf base c with
    | some d => digits base (acc * base + d) cs
    | none => none

/-- A number, decimal or `0x` hexadecimal. -/
def number : List Char → Option Nat
  | '0' :: 'x' :: c :: cs => digits 16 0 (c :: cs)
  | c :: cs => digits 10 0 (c :: cs)
  | [] => none

/-- A number below a bound. -/
def numberBelow (bound : Nat) (cs : List Char) : Option Nat :=
  match number cs with
  | some n => if n < bound then some n else none
  | none => none

/-- A 32-bit operand. -/
def operand32 (cs : List Char) : Option Word32 := (numberBelow (2 ^ 32) cs).map (BitVec.ofNat 32)

/-- 0 or 1. -/
def operandBit (cs : List Char) : Option Bool := (numberBelow 2 cs).map (fun n => n == 1)

/-- A register: a number 0..6, or a name. -/
def register (cs : List Char) : Option (BitVec 8) :=
  match cs with
  | ['T', 'O', 'T', 'A', 'L'] => some 0
  | ['P', 'R', 'E'] => some 1
  | ['T', 'R', 'I', 'G', '0'] => some 2
  | ['T', 'R', 'I', 'G', '1'] => some 3
  | ['T', 'R', 'I', 'G', '2'] => some 4
  | ['T', 'R', 'I', 'G', '3'] => some 5
  | ['M', 'O', 'D', 'E'] => some 6
  | _ => (numberBelow 7 cs).map (BitVec.ofNat 8)

/-- A match kind: LH, LL, EH, EL. -/
def kindName (cs : List Char) : Option MatchKind :=
  match cs with
  | ['L', 'H'] => some .levelHigh
  | ['L', 'L'] => some .levelLow
  | ['E', 'H'] => some .edgeHigh
  | ['E', 'L'] => some .edgeLow
  | _ => none

/-! ## Lines -/

/-- A line with no operand. -/
def lineOf0 (m : List Char) : Option (List Instr) :=
  match m with
  | ['A', 'R', 'M'] => some [.arm]
  | ['A', 'B', 'O', 'R', 'T'] => some [.abort]
  | ['C', 'I', 'R', 'Q'] => some [.cirq]
  | ['T', 'I', 'R', 'Q'] => some [.tirq]
  | ['T', 'X', 'S', 'T', 'A', 'R', 'T'] => some [.txstart]
  | ['T', 'X', 'U', 'N', 'I', 'T'] => some [pseudoTxunit]
  | _ => none

/-- A line with one operand. -/
def lineOf1 (m a : List Char) : Option (List Instr) :=
  match m with
  | ['T', 'I', 'C', 'K'] => (operand32 a).map (fun g => [.tick g])
  | ['R', 'E', 'A', 'D'] => (operand32 a).map (fun i => [.read i])
  | ['T', 'X', 'U', 'N', 'I', 'T'] => (operandBit a).map (fun c => [.txunit c])
  | 'T' :: 'I' :: 'C' :: 'K' :: '*' :: n =>
    match number n, operand32 a with
    | some k, some g => if 1 ≤ k then some (pseudoTicks k g) else none
    | _, _ => none
  | _ => none

/-- A line with two operands. -/
def lineOf2 (m a b : List Char) : Option (List Instr) :=
  match m with
  | ['C', 'F', 'G', 'W', 'R'] =>
    match register a, operand32 b with
    | some r, some v => some [.cfgwr r v]
    | _, _ => none
  | _ => none

/-- A line with three operands. -/
def lineOf3 (m a b c : List Char) : Option (List Instr) :=
  match m with
  | ['T', 'R', 'I', 'G'] =>
    match numberBelow 4 a, kindName b, numberBelow 32 c with
    | some j, some k, some pin => some [pseudoTrig j k pin]
    | _, _, _ => none
  | ['M', 'O', 'D', 'E'] =>
    match operandBit a, operandBit b, operandBit c with
    | some g0, some g1, some rle => some [pseudoMode g0 g1 rle]
    | _, _, _ => none
  | _ => none

/-- The operations one line of text stands for; an empty line or a comment stands for none, and a line outside the syntax
has no answer (30 R85, R86). -/
def assembleLine (line : List Char) : Option (List Instr) :=
  match tokens [] (line.takeWhile (fun c => c != ';')) with
  | [] => some []
  | [.word m] => lineOf0 m
  | [.word m, .word a] => lineOf1 m a
  | [.word m, .word a, .comma, .word b] => lineOf2 m a b
  | [.word m, .word a, .comma, .word b, .comma, .word c] => lineOf3 m a b c
  | _ => none

end Sys2Proof.Machine
end

