-- ==== Sys2Proof/Machine/Reference.lean ====
section
/-! DEFINITION. The spec's reference decoder of the RLE stream (spec/42_readout_transport.md R184), which is no operation of
the block, and runs of steps and of one operation, in which the spec's properties of whole captures and transmissions are said
(41 R149; 42 R173, R185; 48 R214). -/

namespace Sys2Proof.Machine

open Sys2Proof.Config
open Host (Outcome)

/-! ## The reference decoder (42 R184) -/

/-- A payload byte put at the position of the one enabled group. -/
def placeByte (l : Latched) (p : Byte) : Sample := if l.g0 then p.setWidth 16 else p.setWidth 16 <<< 8

/-- NG = 1: one header byte, marker in bit 7, then one payload byte. -/
def decodeRuns1 (l : Latched) : List Byte → Option (List Sample)
  | [] => some []
  | [_] => none
  | h :: p :: rest =>
    if h.getLsbD 7 then
      match decodeRuns1 l rest with
      | some vs => some (List.replicate ((h.extractLsb' 0 7).toNat + 1) (placeByte l p) ++ vs)
      | none => none
    else none

/-- NG = 2: two header bytes, little-endian, marker in bit 15, then two payload bytes. -/
def decodeRuns2 : List Byte → Option (List Sample)
  | [] => some []
  | h0 :: h1 :: p0 :: p1 :: rest =>
    let h : BitVec 16 := h1 ++ h0
    if h.getLsbD 15 then
      match decodeRuns2 rest with
      | some vs => some (List.replicate ((h.extractLsb' 0 15).toNat + 1) (p1 ++ p0) ++ vs)
      | none => none
    else none
  | _ => none

/-- The samples a byte stream of runs stands for (42 R184). -/
def decodeRuns (l : Latched) (bytes : List Byte) : Option (List Sample) :=
  if groupCount l = 1 then decodeRuns1 l bytes
  else if groupCount l = 2 then decodeRuns2 bytes
  else none

/-! ## Runs -/

/-- `n` steps, ending at the first that stops. -/
def runSteps : Nat → State → Outcome State Fault Refusal
  | 0, s => .next s
  | n + 1, s =>
    match step s with
    | .next t => runSteps n t
    | .fault r => .fault r
    | .refused r => .refused r

/-- TICKs carrying the snapshots of a list, in order. -/
def runTicks : List Word32 → State → Outcome State Fault Refusal
  | [], s => .next s
  | g :: gs, s =>
    match exec (.tick g) s with
    | .next t => runTicks gs t
    | .fault r => .fault r
    | .refused r => .refused r

/-- `n` units with no cancel (TXUNIT 0). -/
def runUnits : Nat → State → Outcome State Fault Refusal
  | 0, s => .next s
  | n + 1, s =>
    match exec (.txunit false) s with
    | .next t => runUnits n t
    | .fault r => .fault r
    | .refused r => .refused r

/-- The ring's sampler fed with the words of a list, in order (41 R142). -/
def recordWords : List Sample → State → State
  | [], s => s
  | w :: ws, s => recordWords ws (ringStep w s)

end Sys2Proof.Machine
end

