-- ==== Sys2Proof/Safety.lean ====
section
/-! DEFINITION. What counts as the end of a run and what is observed of it (spec/70_reset_and_hazards.md R302), and the
invariants of the block's state (spec/10_state.md R46 and what makes it inductive; spec/20_memory.md R63;
spec/42_readout_transport.md R175). -/

namespace Sys2Proof.Machine

open Sys2Proof.Config

/-! ## End of a run (70 R302) -/

/-- A bad end: a mark is set. -/
def badEnd (s : State) : Bool := s.faulted.isSome || s.refused.isSome

/-- A good end: nothing armed, nothing pending, nothing being sent, and no mark. -/
def goodEnd (s : State) : Bool :=
  !badEnd s && decide (s.acq = .idle) && !s.compPending && !s.trigIrqPending && !s.txActive

/-- What is observed of a good end: the bytes, the events and, if a completed capture is held, S(0) .. S(L_TOTAL - 1). -/
structure Observation where
  txOut   : List Byte
  events  : List Event
  samples : Option (List (Except FaultReason Sample))

/-- The observation of a state (70 R302). -/
def observe (s : State) : Observation :=
  { txOut := s.txOut
    events := s.events
    samples :=
      if s.dataValid then some ((List.range s.lat.total).map (fun i => logicalRead s (i : Nat))) else none }

/-! ## Invariants -/

/-- The invariant the spec lists, clause by clause (10 R46). -/
structure Listed (s : State) : Prop where
  postEn_capturing : s.postEn = true → s.acq = .capturing
  ringEn_capturing : s.ringEn = true → s.acq = .capturing
  comp_filled : s.compPending = true → s.acq = .capturing ∧ s.postEn = false ∧ s.postCount = s.lat.post
  mux_watch : s.muxEn = s.watchEn
  handoff_armed : s.handoff ≠ none → s.muxEn = true ∧ s.ringEn = true
  capturing_excludes : s.acq = .capturing → s.dataValid = false ∧ s.samplesReady = false ∧ s.txActive = false
  ready_valid : s.samplesReady = true → s.dataValid = true
  tx_valid : s.txActive = true → s.dataValid = true
  count_le : s.postCount ≤ s.lat.post

/-- The ranges the spec gives its fields (10 R22, R26, R35, R37, R38; 40 R112) and what else makes `Listed` inductive. -/
structure Ranges (s : State) : Prop where
  trig_kept : ∀ j : Fin 4, (s.cfgTrig[j]).toNat < 256
  mode_kept : s.cfgMode.toNat < 8
  pre_le : s.lat.pre ≤ RING_CAP
  post_le : s.lat.post ≤ POST_CAP
  total_ge : s.lat.pre + s.lat.post ≤ s.lat.total
  ntrig_count : s.lat.ntrig = s.lat.trig.toList.countP trigEn
  post_pos : s.acq = .capturing ∨ s.dataValid = true → 1 ≤ s.lat.post
  postEn_room : s.postEn = true → s.postCount < s.lat.post
  mux_gates : s.muxEn = true →
    s.ringEn = true ∧ s.postEn = false ∧ s.compPending = false ∧ s.postCount < s.lat.post
  valid_filled : s.dataValid = true → s.postCount = s.lat.post
  first_lt : s.winFirst < RING_CAP
  avail_le : s.winAvail ≤ s.lat.pre
  underrun_iff : s.dataValid = true → s.underrun = decide (s.winAvail < s.lat.pre)
  tx_cursor : s.txActive = true → 0 ≤ s.txNext ∧ s.txNext < s.lat.total
  tx_idle : s.txActive = false → s.txNext = -1
  tx_groups : s.txActive = true → s.lat.rle = true → groupCount s.lat ≠ 0

/-- Both storages have their canonical form. -/
structure StorageForm (s : State) : Prop where
  ring_wf : s.ring.wf RING_CAP = true
  post_wf : s.post.wf POST_CAP = true

/-- What has been written where: the post slots below the fill count, the ring slots the counter says were written since
ARM, and, of a completed capture, the window's slots (20 R63; 42 R175). -/
structure Written (s : State) : Prop where
  post_slots : ∀ k < s.postCount, (s.post.read k).isSome = true
  ring_slots : s.acq = .capturing → ∀ k < min (writtenSinceArm s) RING_CAP, (s.ring.read k).isSome = true
  window_slots : s.dataValid = true →
    ∀ i < s.winAvail, (s.ring.read ((s.winFirst + i) % RING_CAP)).isSome = true

/-- The whole invariant. -/
structure Coherent (s : State) : Prop where
  listed : Listed s
  ranges : Ranges s
  storage : StorageForm s
  written : Written s

end Sys2Proof.Machine
end

