-- ==== Sys2Proof/Certificates/Slice0/Obligations.lean ====
section
/-! DEFINITION. The statements for the provers, each a formal reading of rules of spec/. -/

open Sys2Proof Sys2Proof.Machine Sys2Proof.Config

/-! # Encodings -/

/-- Every well-formed instruction is read back from its encoding, with no host byte left over (30 R80, R81, R83, R92). -/
def Obligations.DecodeInvertsEncode : Prop :=
  ∀ i : Instr, i.wellFormed = true → decode (encode i) = some (i, [])

/-- Every one of the 2^48 operation words either encodes exactly the well-formed operation it decodes to, or is the
encoding of none (30 R83: every word not refused decodes to exactly one operation). -/
def Obligations.DecodeOpIsExact : Prop :=
  ∀ w : OpWord,
    match decodeOp w with
    | .instr i => i.wellFormed = true ∧ encode i = .op w
    | .rejected _ => ∀ i : Instr, i.wellFormed = true → encode i ≠ .op w

/-- Which refusal a word gets at decode: an OP of the map with RSV or a must-be-0 field not 0 is ReservedBits, CFGWR with a
register number of 7 or more and RSV = 0 is ReservedRegister, and no other word gets either refusal (30 R83; 60 R263; the
words of OP 0x0 and 0xA..0xF are instructions here, log 21, and are refused by their meanings). -/
def Obligations.DecodeRefusalsAreReservedFields : Prop :=
  ∀ w : OpWord,
    let op := (w.extractLsb' 44 4).toNat
    let rsv := w.extractLsb' 40 4
    let a := w.extractLsb' 32 8
    let d := w.extractLsb' 0 32
    (decodeOp w = .rejected .reservedBits ↔
      (1 ≤ op ∧ op ≤ 9 ∧ (rsv ≠ 0 ∨
        (op ∈ [2, 3, 5, 6, 8] ∧ (a ≠ 0 ∨ d ≠ 0)) ∨ (op ∈ [4, 7] ∧ a ≠ 0) ∨
        (op = 9 ∧ (a.extractLsb' 1 7 ≠ 0 ∨ d ≠ 0))))) ∧
    (decodeOp w = .rejected .reservedRegister ↔ (op = 1 ∧ rsv = 0 ∧ 7 ≤ a.toNat))

/-- A few words of the spec's own decode table (95 section 2.1) and host bytes (30 R92; 48 R219, R221, R225) decode to what
they stand for. The spec's table refuses 0xF10000000000 with IllegalOp; that its decoding here is an (illegal) instruction,
whose meaning is that refusal, is the model's choice (log 21). -/
def Obligations.SpecWordsDecode : Prop :=
  decodeOp 0x1002000000C0 = .instr (.cfgwr 2 0xC0) ∧
  decodeOp 0x200000000000 = .instr .arm ∧
  decodeOp 0x40000000ABCD = .instr (.tick 0xABCD) ∧
  decodeOp 0x500000000000 = .instr .cirq ∧
  decodeOp 0x700000000007 = .instr (.read 7) ∧
  decodeOp 0x900100000000 = .instr (.txunit true) ∧
  decodeOp 0x900200000000 = .rejected .reservedBits ∧
  decodeOp 0x100700000000 = .rejected .reservedRegister ∧
  decodeOp 0xF10000000000 = .instr (.illegalF 0x10000000000) ∧
  pollCommand [some 0xC6, some 0, some 0, some 0, some 8] = (some (.hostTrigConfig1 0x08000000), []) ∧
  pollCommand [some 0x81, some 3, some 0, some 1, some 0, some 1] = (some (.hostLegacySize 0x00010003), [some 1]) ∧
  pollCommand [some 0xC3, some 1] = (some (.hostOther 0xC3), [some 1])

/-- The command reader: a command that takes a payload reads exactly 4 more slots, little-endian, a timed-out or absent
slot being zero; any other command reads none (48 R212; 30 R92). -/
def Obligations.PollReadsLittleEndianPayload : Prop :=
  ∀ (b : Byte) (rx : List (Option Byte)),
    (takesPayload b = true →
      ∃ p : Word32, pollCommand (some b :: rx) = (some (decodeCommand b p), rx.drop 4) ∧
        ∀ k : Fin 4, p.extractLsb' (8 * k.val) 8 = ((rx[k.val]?).getD none).getD 0) ∧
    (takesPayload b = false → pollCommand (some b :: rx) = (some (decodeCommand b 0), rx)) ∧
    pollCommand (none :: rx) = (none, rx) ∧ pollCommand [] = (none, [])

/-- The expansions of the pseudo-operations TRIG and MODE (30 R86; 10 R24, R25): TRIG is CFGWR 2+j with EN, KIND and PIN
packed, MODE is CFGWR 6 with its three bits. -/
def Obligations.PseudoOpsPackTheirFields : Prop :=
  (∀ (j : Fin 4) (k : MatchKind) (pin : Fin 32),
    ∃ v : Word32, pseudoTrig j.val k pin.val = .cfgwr (BitVec.ofNat 8 (2 + j.val)) v ∧
      v.extractLsb' 8 24 = 0 ∧ trigEn (v.extractLsb' 0 8) = true ∧
      trigKind (v.extractLsb' 0 8) = k ∧ trigPin (v.extractLsb' 0 8) = pin.val) ∧
  (∀ g0 g1 rle : Bool,
    ∃ v : Word32, pseudoMode g0 g1 rle = .cfgwr 6 v ∧ v.toNat < 8 ∧
      v.getLsbD 0 = g0 ∧ v.getLsbD 1 = g1 ∧ v.getLsbD 2 = rle)

/-! # A step -/

/-- A step runs the operation presented: when the first turn that can be taken presents a word that decodes to `i`, and no
operation of a host command goes before it, the step is `exec i` with the turn used up; the word is one whose operation is
enabled. That issued operations go before the main sequence's own, and before no (illegal) word, is the model's choice (log 5,
log 21). -/
def Obligations.StepRunsPresentedWord : Prop :=
  ∀ (s : State) (w : OpWord) (ts : List Turn) (i : Instr),
    s.faulted = none → takeTurn s s.turns = some (.op w, ts) → decodeOp w = .instr i →
    (s.issued = [] ∨ agentOf i ≠ some .main) →
    enabledNow i s = true ∧ step s = exec i { s with turns := ts }

/-- A poll by the main sequence, with no issued operation waiting: where the host link's slots hold a command `i`, the step is
`exec i` with the turn and the slots used up; with no byte available it is 'no command' (48 R212): the turn and the timed-out
slot, if there was one, are used up and nothing else changes. -/
def Obligations.PollRunsCommandOrNothing : Prop :=
  ∀ (s : State) (ts : List Turn),
    s.faulted = none → takeTurn s s.turns = some (.poll, ts) → s.issued = [] →
    (∀ (i : Instr) (rx : List (Option Byte)), pollCommand s.hostRx = (some i, rx) →
      step s = exec i { s with turns := ts, hostRx := rx }) ∧
    ((∀ b rx, s.hostRx ≠ some b :: rx) → step s = .next { s with turns := ts, hostRx := s.hostRx.tail })

/-- The operations a host command issued are taken in order by the main sequence: with no turn left, or at a turn that is
the main sequence's own, which then waits, or at an `issuedOp` turn, the step runs the first of them. -/
def Obligations.StepTakesIssuedInOrder : Prop :=
  ∀ (s : State) (w : OpWord) (ws : List OpWord) (i : Instr),
    s.faulted = none → s.issued = w :: ws → decodeOp w = .instr i → enabledNow i s = true →
    (takeTurn s s.turns = none → step s = exec i { s with issued := ws }) ∧
    (∀ ts, takeTurn s s.turns = some (.poll, ts) → step s = exec i { s with issued := ws }) ∧
    (∀ x ts j, takeTurn s s.turns = some (.op x, ts) → decodeOp x = .instr j → agentOf j = some .main →
      step s = exec i { s with issued := ws }) ∧
    (∀ ts, takeTurn s s.turns = some (.issuedOp, ts) → step s = exec i { s with turns := ts, issued := ws })

/-- The turn taken is the first that can be: the turns before it all wait, and they stay (00 R11, R12). -/
def Obligations.TakenTurnIsFirstEnabled : Prop :=
  ∀ (s : State) (ts : List Turn),
    match takeTurn s ts with
    | some (t, us) => ∃ before after, ts = before ++ t :: after ∧ us = before ++ after ∧ turnEnabled s t = true ∧
        ∀ u ∈ before, turnEnabled s u = false
    | none => ∀ u ∈ ts, turnEnabled s u = false

/-- CIRQ and TIRQ have no step while their pending bit is clear (40 R115, R116): as operations they answer 'not enabled', the
spec's fourth outcome (00 R12), and as turns they wait: with only such turns presented and nothing issued, a step changes
nothing (93: 'A step that is not enabled simply waits for another agent'). -/
def Obligations.NotEnabledServicesWait : Prop :=
  ∀ s : State,
    (s.compPending = false → exec .cirq s = .refused (.notEnabled "CIRQ")) ∧
    (s.trigIrqPending = false → exec .tirq s = .refused (.notEnabled "TIRQ")) ∧
    (s.faulted = none → s.issued = [] → s.compPending = false → s.trigIrqPending = false →
      (∀ t ∈ s.turns, t = .op 0x500000000000 ∨ t = .op 0x600000000000 ∨ t = .issuedOp) → step s = .next s)

/-- A word refused at decode sets the refused mark with its reason and leaves the state otherwise unchanged (30 R83). That it
does so at once, also while operations of a host command wait, is the model's choice (log 29). -/
def Obligations.RejectedWordSetsMark : Prop :=
  ∀ (s : State) (w : OpWord) (ts : List Turn) (e : DecodeError),
    s.faulted = none → takeTurn s s.turns = some (.op w, ts) → decodeOp w = .rejected e →
    step s = .next { s with
      turns := ts
      refused := some (match e with
        | .reservedBits => .reservedBits
        | .reservedRegister => .reservedRegister) }

/-- No step ever ends in the host's refusal outcome: a spec refusal is a mark, and an operation that is not enabled
waits. -/
def Obligations.StepNeverRefuses : Prop := ∀ (s : State) (r : Refusal), step s ≠ .refused r

/-- A faulted state is final (60 R260; 00 R12): a step from it stops, unless the block is reset; and from a state that meets
the invariant a step stops for no other reason. -/
def Obligations.StepStopsOnlyInFaultedState : Prop :=
  (∀ (s : State) (r : FaultReason), s.faulted = some r → s.turns.head? ≠ some .blockReset →
    step s = .fault (.faultedFinal r)) ∧
  (∀ (s : State) (r : Fault), Coherent s → step s = .fault r → ∃ m, s.faulted = some m ∧ r = .faultedFinal m)

/-- The run marks are never cleared by any operation (10 R42): a step that is no block reset keeps a set refused mark set,
and an instruction keeps both. -/
def Obligations.MarksAreNeverCleared : Prop :=
  (∀ (i : Instr) (s t : State), exec i s = .next t →
    (s.faulted ≠ none → t.faulted ≠ none) ∧ (s.refused ≠ none → t.refused ≠ none)) ∧
  (∀ s t : State, Turn.blockReset ∉ s.turns → step s = .next t → s.refused ≠ none → t.refused ≠ none)

/-- What reset leaves, field by field (10 R45; 48 R211), and that a block reset restores it, but for what the outside world has
still to present (70 R290). The value of the ring counter, to which the spec gives none, is not stated. -/
def Obligations.ResetValues : Prop :=
  (∀ (s : State) (ts : List Turn), s.turns = .blockReset :: ts →
    step s = .next { State.reset with turns := ts, hostRx := s.hostRx }) ∧
  let s := State.reset
  s.cfgTotal = 0 ∧ s.cfgPre = 0 ∧ (∀ j : Fin 4, s.cfgTrig[j] = 0) ∧ s.cfgMode = 0 ∧
  s.lat.total = 0 ∧ s.lat.pre = 0 ∧ s.lat.post = 0 ∧ s.lat.ntrig = 0 ∧ (∀ j : Fin 4, s.lat.trig[j] = 0) ∧
  s.lat.g0 = false ∧ s.lat.g1 = false ∧ s.lat.rle = false ∧
  s.acq = .idle ∧ s.ringEn = false ∧ s.postEn = false ∧ s.muxEn = false ∧ s.watchEn = false ∧
  s.handoff = none ∧ (∀ j : Fin 4, s.ref[j] = none) ∧
  (∀ k, s.ring.read k = none) ∧ (∀ k, s.post.read k = none) ∧ s.postCount = 0 ∧
  s.winFirst = 0 ∧ s.winAvail = 0 ∧ s.underrun = false ∧ s.dataValid = false ∧ s.samplesReady = false ∧
  s.txActive = false ∧ s.txNext = -1 ∧ s.compPending = false ∧ s.trigIrqPending = false ∧
  s.txOut = [] ∧ s.events = [] ∧ s.faulted = none ∧ s.refused = none ∧
  s.fe.divisor = 0 ∧ s.fe.flags = 0 ∧
  (∀ j : Fin 4, s.fe.stages[j] = { mask := 0, values := 0, config := 0 }) ∧
  s.fe.totalSamples = 0 ∧ s.fe.preTriggerSamples = 0 ∧ s.fe.rate = 0

/-! # Acquisition control -/

/-- CFGWR in every state, for every register: the register takes the bits it keeps, and nothing else changes (40 R110). The
last clause is the frame: every other field, both storages among them, is as before. -/
def Obligations.CfgwrWritesItsRegister : Prop :=
  ∀ (r : BitVec 8) (v : Word32) (s : State), r.toNat < 7 →
    ∃ t, exec (.cfgwr r v) s = .next t ∧
      t.cfgTotal = (if r = 0 then v else s.cfgTotal) ∧
      t.cfgPre = (if r = 1 then v else s.cfgPre) ∧
      (∀ j : Fin 4, t.cfgTrig[j] = if r.toNat = 2 + j.val then v &&& 0xFF else s.cfgTrig[j]) ∧
      t.cfgMode = (if r = 6 then v &&& 7 else s.cfgMode) ∧
      t = { s with cfgTotal := t.cfgTotal, cfgPre := t.cfgPre, cfgTrig := t.cfgTrig, cfgMode := t.cfgMode }

/-- ARM from Idle with no transmission and at least one post-trigger sample left: every field it writes, with the latched
configuration and its clamps (40 R111, R112), and nothing else. -/
def Obligations.ArmStartsCapture : Prop :=
  ∀ s : State, s.acq = .idle → s.txActive = false →
    min s.cfgPre.toNat 1024 + 1 ≤ s.cfgTotal.toNat →
    ∃ t, exec .arm s = .next t ∧
      t.lat.total = s.cfgTotal.toNat ∧
      t.lat.pre = min s.cfgPre.toNat 1024 ∧
      t.lat.post = min (s.cfgTotal.toNat - min s.cfgPre.toNat 1024) 100000 ∧
      (∀ j : Fin 4, t.lat.trig[j] = (s.cfgTrig[j]).extractLsb' 0 8) ∧
      t.lat.ntrig = (List.finRange 4).countP (fun j => (s.cfgTrig[j]).getLsbD 7) ∧
      t.lat.g0 = s.cfgMode.getLsbD 0 ∧ t.lat.g1 = s.cfgMode.getLsbD 1 ∧ t.lat.rle = s.cfgMode.getLsbD 2 ∧
      t.ringRemaining = INITIAL_COUNT ∧ t.postCount = 0 ∧ t.ringEn = true ∧
      t.muxEn = decide (0 < t.lat.ntrig) ∧ t.watchEn = decide (0 < t.lat.ntrig) ∧
      t.postEn = decide (t.lat.ntrig = 0) ∧
      t.handoff = none ∧ (∀ j : Fin 4, t.ref[j] = EDGE_REF_INIT) ∧
      t.compPending = false ∧ t.dataValid = false ∧ t.samplesReady = false ∧ t.underrun = false ∧
      t.winFirst = 0 ∧ t.winAvail = 0 ∧ t.acq = .capturing ∧
      t = { s with
        lat := t.lat, ringRemaining := t.ringRemaining, postCount := t.postCount, ringEn := t.ringEn
        muxEn := t.muxEn, watchEn := t.watchEn, postEn := t.postEn, handoff := t.handoff, ref := t.ref
        compPending := t.compPending, dataValid := t.dataValid, samplesReady := t.samplesReady
        underrun := t.underrun, winFirst := t.winFirst, winAvail := t.winAvail, acq := t.acq }

/-- When ARM does not start a capture: the three checks in their order, each leaving the rest of the state as it was
(40 R111; 60 R260, R261, R263). -/
def Obligations.ArmChecksInOrder : Prop :=
  ∀ s : State,
    (s.acq = .capturing → exec .arm s = .next { s with faulted := some .startWhileCapturing }) ∧
    (s.acq = .idle → s.txActive = true → exec .arm s = .next { s with faulted := some .armDuringTransmit }) ∧
    (s.acq = .idle → s.txActive = false → s.cfgTotal.toNat < min s.cfgPre.toNat 1024 + 1 →
      exec .arm s = .next { s with refused := some .noPostSamples })

/-- ABORT always succeeds: a capture is halted with its pending completion defused and no event, a transmission ends with
no further byte, and nothing else changes (40 R114, R119). -/
def Obligations.AbortHaltsEverything : Prop :=
  ∀ s : State, ∃ t, exec .abort s = .next t ∧
    t.acq = .idle ∧ t.txActive = false ∧
    (s.acq = .capturing →
      t.ringEn = false ∧ t.postEn = false ∧ t.muxEn = false ∧ t.watchEn = false ∧ t.handoff = none ∧
      t.compPending = false) ∧
    (s.acq = .idle →
      t.ringEn = s.ringEn ∧ t.postEn = s.postEn ∧ t.muxEn = s.muxEn ∧ t.watchEn = s.watchEn ∧
      t.handoff = s.handoff ∧ t.compPending = s.compPending) ∧
    t.txNext = (if s.txActive then -1 else s.txNext) ∧
    t = { s with
      acq := t.acq, txActive := t.txActive, txNext := t.txNext, ringEn := t.ringEn, postEn := t.postEn
      muxEn := t.muxEn, watchEn := t.watchEn, handoff := t.handoff, compPending := t.compPending }

/-- CIRQ has a step exactly when a completion is pending, and then (40 R115, with the window of 42 R170 written out) the units
are halted, window and underrun computed from the counter, one onComplete appended, and nothing else changes. -/
def Obligations.CirqCompletesCapture : Prop :=
  ∀ s : State, enabledNow .cirq s = s.compPending ∧ (s.compPending = true →
    ∃ t, exec .cirq s = .next t ∧
      (let written := (INITIAL_COUNT - s.ringRemaining).toNat
       let f : Int := (written % 1024 : Nat) - (s.lat.pre : Int)
       (f < 0 ∧ written < 1024 → t.winFirst = 0 ∧ t.winAvail = written) ∧
       (¬ (f < 0 ∧ written < 1024) → (t.winFirst : Int) = f % 1024 ∧ t.winAvail = s.lat.pre)) ∧
      t.underrun = decide (t.winAvail < s.lat.pre) ∧
      t.compPending = false ∧ t.ringEn = false ∧ t.postEn = false ∧ t.muxEn = false ∧ t.watchEn = false ∧
      t.handoff = none ∧ t.dataValid = true ∧ t.samplesReady = true ∧ t.acq = .idle ∧
      t.events = s.events ++ [.onComplete t.winAvail] ∧
      t = { s with
        winFirst := t.winFirst, winAvail := t.winAvail, underrun := t.underrun, compPending := t.compPending
        ringEn := t.ringEn, postEn := t.postEn, muxEn := t.muxEn, watchEn := t.watchEn, handoff := t.handoff
        dataValid := t.dataValid, samplesReady := t.samplesReady, acq := t.acq, events := t.events })

/-- TIRQ has a step exactly when a trigger notification is pending, and then clears the pending bit, appends trigNotify and
changes nothing else (40 R116). -/
def Obligations.TirqServicesNotification : Prop :=
  ∀ s : State, enabledNow .tirq s = s.trigIrqPending ∧ (s.trigIrqPending = true →
    exec .tirq s = .next { s with trigIrqPending := false, events := s.events ++ [.trigNotify] })

/-- Every (illegal) word sets the refused mark with IllegalOp and changes nothing else (30 R83; 60 R261). -/
def Obligations.IllegalWordsSetMark : Prop :=
  ∀ (i : Instr) (x : BitVec 44) (s : State),
    i ∈ [.illegal0 x, .illegalA x, .illegalB x, .illegalC x, .illegalD x, .illegalE x, .illegalF x] →
    exec i s = .next { s with refused := some .illegalOp }

/-- Transitions of `acq` (40 R117): an instruction that changes it is ARM from Idle to Capturing, or CIRQ or ABORT from
Capturing to Idle. -/
def Obligations.OnlyArmCirqAbortMoveController : Prop :=
  ∀ (i : Instr) (s t : State), exec i s = .next t → t.acq ≠ s.acq →
    (i = .arm ∧ s.acq = .idle ∧ t.acq = .capturing) ∨
    ((i = .cirq ∨ i = .abort) ∧ s.acq = .capturing ∧ t.acq = .idle)

/-! # Sampling -/

/-- A TICK while Idle changes nothing (41 R147). -/
def Obligations.TickWhileIdleChangesNothing : Prop :=
  ∀ (g : Word32) (s : State), s.acq = .idle → exec (.tick g) s = .next s

/-- A TICK while capturing, storage side (41 R141, R142, R143): one word of the snapshot goes to slot
(INITIAL_COUNT - ringRemaining) mod 1024 of the ring if the ring's sampler runs and to slot postCount of the post buffer if
the post sampler runs, every other slot of both reads as before, the counters move, and the completion is raised exactly when
the post buffer receives its L_POST-th word. What no clause names is unchanged. -/
def Obligations.TickRecordsOneWord : Prop :=
  ∀ (g : Word32) (s : State), s.acq = .capturing → (s.postEn = true → s.postCount < 100000) →
    ∃ t, exec (.tick g) s = .next t ∧
      (let w : Sample := g.extractLsb' CAPTURE_BASE.val 16
       let wpos := (INITIAL_COUNT - s.ringRemaining).toNat % 1024
       (∀ k, t.ring.read k = if s.ringEn = true ∧ k = wpos then some w else s.ring.read k) ∧
       (∀ k, t.post.read k = if s.postEn = true ∧ k = s.postCount then some w else s.post.read k)) ∧
      t.ringRemaining = (if s.ringEn then s.ringRemaining - 1 else s.ringRemaining) ∧
      t.postCount = (if s.postEn then s.postCount + 1 else s.postCount) ∧
      t.compPending = (if s.postEn = true ∧ s.postCount + 1 = s.lat.post then true else s.compPending) ∧
      t = { s with
        ring := t.ring, post := t.post, ringRemaining := t.ringRemaining, postCount := t.postCount
        compPending := t.compPending, ringEn := t.ringEn, postEn := t.postEn, muxEn := t.muxEn
        watchEn := t.watchEn, handoff := t.handoff, ref := t.ref, trigIrqPending := t.trigIrqPending }

/-- Whether watcher `j` is enabled and satisfied by snapshot `g`, as 41 R144 gives the four kinds. -/
def Sys2Proof.Machine.satisfied (g : Word32) (s : State) (j : Fin 4) : Prop :=
  let d := s.lat.trig[j]
  let b := g.getLsbD (d.extractLsb' 0 5).toNat
  d.getLsbD 7 = true ∧
  (((d.extractLsb' 5 2) = 0b00 ∧ b = true) ∨ ((d.extractLsb' 5 2) = 0b01 ∧ b = false) ∨
   ((d.extractLsb' 5 2) = 0b10 ∧ s.ref[j] = some false ∧ b = true) ∨
   ((d.extractLsb' 5 2) = 0b11 ∧ s.ref[j] = some true ∧ b = false))

/-- A TICK on which the watchers run (41 R144, R145, R146): every enabled watcher's reference level becomes the level of its
pin; the multiplexer signals iff some enabled watcher is satisfied; a signal raises the trigger notification and starts the
handoff, which takes effect in the same TICK when HANDOFF_DELAY is 0. -/
def Obligations.TickFiresOnAnyWatcher : Prop :=
  ∀ (g : Word32) (s : State), s.acq = .capturing → (s.postEn = true → s.postCount < 100000) →
    s.watchEn = true → s.muxEn = true → s.handoff = none →
    ∃ t, exec (.tick g) s = .next t ∧
      (∀ j : Fin 4, t.ref[j] = if (s.lat.trig[j]).getLsbD 7 then
        some (g.getLsbD ((s.lat.trig[j]).extractLsb' 0 5).toNat) else s.ref[j]) ∧
      ((∀ j, ¬ satisfied g s j) →
        t.trigIrqPending = s.trigIrqPending ∧ t.handoff = none ∧ t.ringEn = s.ringEn ∧ t.muxEn = true ∧
        t.watchEn = true) ∧
      ((∃ j, satisfied g s j) →
        t.trigIrqPending = true ∧
        (0 < HANDOFF_DELAY → t.handoff = some HANDOFF_DELAY ∧ t.ringEn = s.ringEn ∧ t.muxEn = true ∧
          t.watchEn = true) ∧
        (HANDOFF_DELAY = 0 → t.handoff = none ∧ t.ringEn = false ∧ t.postEn = true ∧ t.muxEn = false ∧
          t.watchEn = false))

/-- A TICK on which no watcher is evaluated (41 R145's guard fails) leaves the reference levels and the trigger notification
as they were, and moves the handoff only by its countdown (41 R141, R146). -/
def Obligations.TickWithoutWatchersCountsDown : Prop :=
  ∀ (g : Word32) (s : State), s.acq = .capturing → (s.postEn = true → s.postCount < 100000) →
    (s.watchEn = false ∨ s.muxEn = false ∨ s.handoff ≠ none) →
    ∃ t, exec (.tick g) s = .next t ∧ t.ref = s.ref ∧ t.trigIrqPending = s.trigIrqPending ∧
      (s.handoff = none → t.handoff = none ∧ t.ringEn = s.ringEn ∧ t.muxEn = s.muxEn ∧ t.watchEn = s.watchEn) ∧
      (∀ n, s.handoff = some (n + 2) →
        t.handoff = some (n + 1) ∧ t.ringEn = s.ringEn ∧ t.muxEn = s.muxEn ∧ t.watchEn = s.watchEn) ∧
      (s.handoff = some 1 ∨ s.handoff = some 0 →
        t.handoff = none ∧ t.ringEn = false ∧ t.postEn = true ∧ t.muxEn = false ∧ t.watchEn = false)

/-- A TICK whose post write has no slot to go to stops: no state that meets `Coherent` is such (the model's choice, log 16;
20 R62). -/
def Obligations.TickBeyondPostBufferStops : Prop :=
  ∀ (g : Word32) (s : State), s.acq = .capturing → s.postEn = true → 100000 ≤ s.postCount →
    exec (.tick g) s = .fault (.noSuchPostSlot s.postCount)

/-- The handoff's latency (41 R146): with n ticks to go, n TICKs later the ring's sampler has recorded n more words and is
off, the post sampler is on, and the multiplexer and the watchers are off; nothing has gone to the post buffer. -/
def Obligations.HandoffTakesItsDelay : Prop :=
  ∀ (gs : List Word32) (s : State),
    s.acq = .capturing → s.ringEn = true → s.postEn = false → s.handoff = some gs.length → gs ≠ [] →
    ∃ t, runTicks gs s = .next t ∧
      t.ringRemaining = s.ringRemaining - BitVec.ofNat 32 gs.length ∧
      t.ringEn = false ∧ t.postEn = true ∧ t.muxEn = false ∧ t.watchEn = false ∧ t.handoff = none ∧
      t.post = s.post ∧ t.postCount = s.postCount

/-- The post buffer's phase of a capture (41 R143, R149): from a state with the post sampler on and room for the TICKs given,
the words of those TICKs stand in consecutive slots, the slots below are as before, and the completion is raised, with the
post sampler stopped, exactly when the last of the L_POST words has been written. -/
def Obligations.PostBufferRecordsConsecutiveTicks : Prop :=
  ∀ (gs : List Word32) (s : State),
    s.acq = .capturing → s.postEn = true → s.compPending = false → s.muxEn = false → s.handoff = none →
    s.lat.post ≤ 100000 → s.postCount + gs.length ≤ s.lat.post →
    s.postCount < s.lat.post →
    ∃ t, runTicks gs s = .next t ∧
      t.postCount = s.postCount + gs.length ∧
      (∀ i : Fin gs.length, t.post.read (s.postCount + i) = some ((gs[i]).extractLsb' CAPTURE_BASE.val 16)) ∧
      (∀ k < s.postCount, t.post.read k = s.post.read k) ∧
      t.compPending = decide (s.postCount + gs.length = s.lat.post) ∧
      t.postEn = decide (s.postCount + gs.length < s.lat.post)

/-- One TICK never raises both notifications (60 R265): from a state that meets the invariant, a TICK that raises the
completion leaves the trigger notification as it was. -/
def Obligations.TickNeverRaisesBoth : Prop :=
  ∀ (g : Word32) (s t : State), Coherent s → exec (.tick g) s = .next t →
    s.compPending = false → t.compPending = true → t.trigIrqPending = s.trigIrqPending

/-! # Window, readout and transport -/

/-- Window content (42 R170, R171, R173): after the ring's sampler has written the words of a list of fewer than 2^32 words
since ARM, the window that CIRQ computes for `pre` requested words holds min(written, pre) words, and they are the most recent
ones, oldest first, wherever they lie in the ring. -/
def Obligations.WindowHoldsNewestWords : Prop :=
  ∀ (ws : List Sample) (s : State) (pre : Nat),
    s.ringEn = true → s.ringRemaining = INITIAL_COUNT → ws.length < 2 ^ 32 → pre ≤ 1024 →
    let t := recordWords ws s
    let win := window (writtenSinceArm t) pre
    win.1 < 1024 ∧ win.2 = min ws.length pre ∧
      ∀ i < win.2, t.ring.read ((win.1 + i) % 1024) = ws[ws.length - win.2 + i]?

/-- READ of a completed capture (42 R172, R176): the value of the slot the logical index maps to, 0 out of range; only the
read result changes. -/
def Obligations.ReadReturnsLogicalSample : Prop :=
  ∀ (i : Word32) (s : State) (v : Sample), s.dataValid = true →
    (if i.toNat < s.winAvail then s.ring.read ((s.winFirst + i.toNat) % 1024) = some v
     else if i.toNat < s.winAvail + s.lat.post then s.post.read (i.toNat - s.winAvail) = some v
     else v = 0) →
    exec (.read i) s = .next { s with readResult := some v }

/-- When READ returns no value: no completed capture is held (42 R176), or the slot has no value (20 R61, R62). -/
def Obligations.ReadWithoutValueSetsMark : Prop :=
  ∀ (i : Word32) (s : State),
    (s.dataValid = false → exec (.read i) s = .next { s with refused := some .readBeforeComplete }) ∧
    (s.dataValid = true → i.toNat < s.winAvail → s.ring.read ((s.winFirst + i.toNat) % 1024) = none →
      exec (.read i) s =
        .next { s with faulted := some (.readUnwrittenRing ((s.winFirst + i.toNat) % 1024)) }) ∧
    (s.dataValid = true → s.winAvail ≤ i.toNat → i.toNat < s.winAvail + s.lat.post →
      s.post.read (i.toNat - s.winAvail) = none →
      exec (.read i) s = .next { s with faulted := some (.readUnwrittenPost (i.toNat - s.winAvail)) })

/-- TXSTART of a completed capture (42 R178): the cursor starts at the newest index, and an underrun is reported. -/
def Obligations.TxstartBeginsTransmission : Prop :=
  ∀ s : State, s.samplesReady = true → ¬ (s.lat.rle = true ∧ s.lat.g0 = false ∧ s.lat.g1 = false) →
    exec .txstart s = .next { s with
      samplesReady := false
      txActive := true
      txNext := (s.lat.total : Int) - 1
      events := s.events ++ (if s.underrun then [.diagUnderrun s.lat.pre s.winAvail] else []) }

/-- When TXSTART is refused, its checks in order (42 R178; 60 R263). -/
def Obligations.TxstartChecksInOrder : Prop :=
  ∀ s : State,
    (s.samplesReady = false → exec .txstart s = .next { s with refused := some .noSamplesReady }) ∧
    (s.samplesReady = true → s.lat.rle = true → s.lat.g0 = false → s.lat.g1 = false →
      exec .txstart s = .next { s with refused := some .rleNoGroups })

/-- A raw TXUNIT (42 R177, R179, R181; 30 R89): the bytes of the enabled groups, group 0 first, are appended, the cursor moves
down, the transmission ends below 0, and nothing else changes. -/
def Obligations.RawUnitEmitsEnabledGroups : Prop :=
  ∀ (s : State) (v : Sample), s.txActive = true → s.lat.rle = false → logicalRead s s.txNext = .ok v →
    exec (.txunit false) s = .next { s with
      txOut := s.txOut ++ ((if s.lat.g0 then [v.extractLsb' 0 8] else []) ++
        (if s.lat.g1 then [v.extractLsb' 8 8] else []))
      txNext := s.txNext - 1
      txActive := decide (0 ≤ s.txNext - 1) }

/-- An RLE TXUNIT with one or two groups enabled (42 R182, R183): it emits one maximal run. The run has n samples, all equal
after masking; it ends at the lower bound, at the maximum length or at a different value; its header holds n - 1 under the
marker and its payload is the masked value in the raw encoding. -/
def Obligations.RleUnitEmitsOneMaximalRun : Prop :=
  ∀ (s : State) (f : Int → Sample), s.txActive = true → s.lat.rle = true → (s.lat.g0 = true ∨ s.lat.g1 = true) →
    0 ≤ s.txNext → (∀ j, 0 ≤ j → j ≤ s.txNext → logicalRead s j = .ok (f j)) →
    let both := s.lat.g0 && s.lat.g1
    let m : Sample := if both then 0xFFFF else if s.lat.g0 then 0x00FF else 0xFF00
    let max : Nat := if both then 32768 else 128
    ∃ n : Nat, 1 ≤ n ∧ n ≤ max ∧ (n : Int) ≤ s.txNext + 1 ∧
      (∀ k : Nat, k < n → f (s.txNext - k) &&& m = f s.txNext &&& m) ∧
      ((n : Int) = s.txNext + 1 ∨ n = max ∨ f (s.txNext - n) &&& m ≠ f s.txNext &&& m) ∧
      exec (.txunit false) s = .next { s with
        txOut := s.txOut ++
          ((if both then [BitVec.ofNat 8 (n - 1), 0x80 ||| BitVec.ofNat 8 ((n - 1) / 256)]
            else [0x80 ||| BitVec.ofNat 8 (n - 1)]) ++
           rawBytes s.lat (f s.txNext &&& m))
        txNext := s.txNext - n
        txActive := decide (0 ≤ s.txNext - n) }

/-- TXUNIT with the cancel input set emits nothing and ends the transmission; with no transmission in progress it is refused
(42 R179, R180). -/
def Obligations.TxunitCancelAndRefusal : Prop :=
  ∀ s : State,
    (s.txActive = true → exec (.txunit true) s = .next { s with txActive := false, txNext := -1 }) ∧
    (∀ c, s.txActive = false → exec (.txunit c) s = .next { s with refused := some .noTransmission })

/-- A raw transmission that is not cancelled (42 R181, R185): one unit per logical sample, newest first, and at the end
nothing is being sent. -/
def Obligations.RawTransmissionSendsEverySample : Prop :=
  ∀ (s : State) (f : Nat → Sample) (n : Nat), s.txActive = true → s.lat.rle = false → s.txNext = n →
    (∀ i ≤ n, logicalRead s (i : Nat) = .ok (f i)) →
    ∃ t, runUnits (n + 1) s = .next t ∧ t.txActive = false ∧ t.txNext = -1 ∧
      t.txOut = s.txOut ++ ((List.range (n + 1)).reverse.flatMap (fun i => rawBytes s.lat (f i)))

/-- RLE round trip (42 R184, R185): some number of units sends the whole transmission, and the reference decoder reads from the
bytes sent exactly the masked samples, newest first. -/
def Obligations.RleTransmissionRoundTrips : Prop :=
  ∀ (s : State) (f : Nat → Sample) (n : Nat), s.txActive = true → s.lat.rle = true →
    (s.lat.g0 = true ∨ s.lat.g1 = true) → s.txNext = n →
    (∀ i ≤ n, logicalRead s (i : Nat) = .ok (f i)) →
    ∃ (units : Nat) (t : State) (bytes : List Byte), runUnits units s = .next t ∧ units ≤ n + 1 ∧
      t.txActive = false ∧ t.txNext = -1 ∧ t.txOut = s.txOut ++ bytes ∧
      decodeRuns s.lat bytes = some ((List.range (n + 1)).reverse.map (fun i => f i &&& groupMask s.lat))

/-- The outputs are append-only (10 R41): no instruction removes or changes a byte sent or an event emitted. -/
def Obligations.OutputsAreAppendOnly : Prop :=
  ∀ (i : Instr) (s t : State), exec i s = .next t → s.txOut <+: t.txOut ∧ s.events <+: t.events

/-! # Host front-end -/

/-- 0x00 reset (48 R213): divisor, flags and stages become 0, ABORT is issued (after the pending TXUNIT with c = 1 during a
transmission), and nothing else changes: the block keeps its state (70 R291). -/
def Obligations.HostResetZeroesProtocolState : Prop :=
  ∀ s : State, ∃ t, exec .hostReset s = .next t ∧
    t.fe.divisor = 0 ∧ t.fe.flags = 0 ∧ (∀ j : Fin 4, t.fe.stages[j] = { mask := 0, values := 0, config := 0 }) ∧
    t.fe.totalSamples = s.fe.totalSamples ∧ t.fe.preTriggerSamples = s.fe.preTriggerSamples ∧
    t.fe.rate = s.fe.rate ∧
    t.issued = s.issued ++ (if s.txActive then [0x900100000000, 0x300000000000] else [0x300000000000]) ∧
    t = { s with fe := t.fe, issued := t.issued }

/-- 0x01 run (48 R214): with a positive rate, no trigger pin beyond the snapshot and counts of 32 bits, the run command issues
CFGWR 0..6 and ARM in order, with the sizes, the descriptors of the translated triggers and the mode bits, reports the
dropped triggers and records the clock selected. -/
def Obligations.HostRunIssuesCapture : Prop :=
  ∀ (s : State) (ts : List Candidate) (drops : List Event) (sel : ClockSel) (total pre : Word32),
    translateStages s.fe = some (ts, drops) → selectClock s.fe.rate = some sel →
    s.fe.totalSamples = total.toNat → s.fe.preTriggerSamples = pre.toNat →
    ∃ words : List OpWord,
      exec .hostRun s = .next { s with
        clockSel := some sel, events := s.events ++ drops, issued := s.issued ++ words } ∧
      words.map decodeOp =
        [.instr (.cfgwr 0 total), .instr (.cfgwr 1 pre)] ++
        (List.range 4).map (fun j => .instr (.cfgwr (BitVec.ofNat 8 (2 + j))
          (match ts[j]? with
           | some c => (0x80#8 ||| (kindCode c.kind <<< 5) ||| BitVec.ofNat 8 c.pin).setWidth 32
           | none => 0))) ++
        [.instr (.cfgwr 6 ((if s.fe.flags.getLsbD 2 then 0 else 1) ||| (if s.fe.flags.getLsbD 3 then 0 else 2) |||
          (if s.fe.flags.getLsbD 8 then 4 else 0))),
         .instr .arm]

/-- A run command from an idle block, taken to its end by the main sequence with no other agent between, arms the capture the
front-end describes: the clamped sizes, one descriptor per translated trigger with EN set, its kind and its pin, 0 for those
absent, the mode bits, and the units that run with and without a trigger (48 R214; 40 R111, R112, R113; 10 R24). -/
def Obligations.HostRunArmsCapture : Prop :=
  ∀ (s t : State) (ts : List Candidate) (drops : List Event) (sel : ClockSel) (total pre : Word32),
    translateStages s.fe = some (ts, drops) → selectClock s.fe.rate = some sel →
    s.fe.totalSamples = total.toNat → s.fe.preTriggerSamples = pre.toNat →
    s.faulted = none → s.turns = [] → s.issued = [] → s.acq = .idle → s.txActive = false →
    min pre.toNat 1024 + 1 ≤ total.toNat → exec .hostRun s = .next t →
    ∃ u : State, runSteps 8 t = .next u ∧ u.issued = [] ∧ u.acq = .capturing ∧
      u.faulted = none ∧ u.lat.total = total.toNat ∧ u.lat.pre = min pre.toNat 1024 ∧
      u.lat.post = min (total.toNat - min pre.toNat 1024) 100000 ∧
      (∀ j : Fin 4, match ts[j.val]? with
        | some c =>
          (u.lat.trig[j]).getLsbD 7 = true ∧ ((u.lat.trig[j]).extractLsb' 0 5).toNat = c.pin ∧
          (u.lat.trig[j]).extractLsb' 5 2 = (match c.kind with
            | .levelHigh => 0b00
            | .levelLow => 0b01
            | .edgeHigh => 0b10
            | .edgeLow => 0b11)
        | none => u.lat.trig[j] = 0) ∧
      u.lat.ntrig = ts.length ∧
      u.ringEn = true ∧ u.muxEn = decide (ts ≠ []) ∧ u.watchEn = decide (ts ≠ []) ∧ u.postEn = decide (ts = []) ∧
      u.lat.g0 = !s.fe.flags.getLsbD 2 ∧ u.lat.g1 = !s.fe.flags.getLsbD 3 ∧ u.lat.rle = s.fe.flags.getLsbD 8

/-- 0x02 and 0x04 (48 R215, R216): the ID literal's four bytes; and the six fields in order, each a tag byte and its value, a
string with a null, a number in 4 bytes little-endian, then a zero tag byte. The block is not involved. -/
def Obligations.IdAndMetadataResponses : Prop :=
  ∀ s : State,
    exec .hostSendId s =
      .next { s with hostTx := s.hostTx ++ [ID_BYTES 0, ID_BYTES 1, ID_BYTES 2, ID_BYTES 3] } ∧
    ∃ value : MetaField → List Byte,
      (∀ f, match META_VALUE f with
        | .str bytes => value f = bytes ++ [0]
        | .num v => (value f).length = 4 ∧ ∀ k : Fin 4, (value f)[k.val]? = some (v.extractLsb' (8 * k.val) 8)) ∧
      exec .hostSendMetadata s = .next { s with hostTx := s.hostTx ++
        ([.deviceName, .firmwareVersion, .sampleMemory, .maxSampleRate, .channelCount, .protocolVersion].flatMap
          (fun f => META_TAG f :: value f) ++ [0]) }

/-- The twelve stage commands (48 R217, R218, R219): each writes its register of its stage and nothing else. -/
def Obligations.StageCommandsWriteTheirRegister : Prop :=
  ∀ (p : Word32) (s : State),
    let written (j : Fin 4) (r : StageRegs) (i : Instr) : Prop :=
      ∃ t, exec i s = .next t ∧ t.fe.stages[j] = r ∧
        (∀ k : Fin 4, k ≠ j → t.fe.stages[k] = s.fe.stages[k]) ∧
        t = { s with fe := { s.fe with stages := t.fe.stages } }
    (∀ x ∈ [((0 : Fin 4), Instr.hostTrigMask0 p), (1, .hostTrigMask1 p), (2, .hostTrigMask2 p), (3, .hostTrigMask3 p)],
      written x.1 { s.fe.stages[x.1] with mask := p } x.2) ∧
    (∀ x ∈ [((0 : Fin 4), Instr.hostTrigValues0 p), (1, .hostTrigValues1 p), (2, .hostTrigValues2 p),
        (3, .hostTrigValues3 p)],
      written x.1 { s.fe.stages[x.1] with values := p } x.2) ∧
    (∀ x ∈ [((0 : Fin 4), Instr.hostTrigConfig0 p), (1, .hostTrigConfig1 p), (2, .hostTrigConfig2 p),
        (3, .hostTrigConfig3 p)],
      written x.1 { s.fe.stages[x.1] with config := p } x.2)

/-- 0x80 and 0x82 (48 R220, R222, R245): the divisor is stored and the rate left alone; flags derive the rate from the divisor
stored before, doubled by DEMUX (flags bit 0). -/
def Obligations.DivisorAndFlagsSetRate : Prop :=
  ∀ (p : Word32) (s : State),
    exec (.hostDivisor p) s = .next { s with fe := { s.fe with divisor := p } } ∧
    exec (.hostFlags p) s = .next { s with fe := { s.fe with
      flags := p
      rate := (if p.getLsbD 0 then 2 else 1) * BASE_CLOCK_RATE / ((s.fe.divisor.toNat : Rat) + 1) } }

/-- 0x81, 0x83 and 0x84 where the pre-trigger size is not negative (48 R221, R223, R224; 30 R96): the fields each writes, and
nothing else. -/
def Obligations.SizeCommandsSetCounts : Prop :=
  ∀ (p : Word32) (s : State),
    (p.toNat / 65536 ≤ p.toNat % 65536 →
      exec (.hostLegacySize p) s = .next { s with fe := { s.fe with
        totalSamples := ((p.toNat % 65536) * 4 + 4 : Nat)
        preTriggerSamples := ((p.toNat % 65536) * 4 + 4 : Nat) - ((p.toNat / 65536) * 4 + 4 : Nat) } }) ∧
    exec (.hostTotalSamples p) s = .next { s with fe := { s.fe with totalSamples := 4 * (p.toNat : Int) + 4 } } ∧
    (4 * (p.toNat : Int) + 4 ≤ s.fe.totalSamples →
      exec (.hostPreTrigger p) s = .next { s with fe := { s.fe with
        preTriggerSamples := s.fe.totalSamples - (4 * (p.toNat : Int) + 4) } })

/-- Any other byte changes no state (48 R225). -/
def Obligations.OtherBytesAreIgnored : Prop :=
  ∀ (b : Byte) (s : State), exec (.hostOther b) s = .next s

/-- The front-end's refusals, each leaving everything else as it was (60 R261): 0x81 and 0x84 with a negative pre-trigger size
(48 R221, R224), and a run command with a translated pin above 31 (48 R237) or else a rate that is not positive (48 R240); the
order of the last two is the model's (log 24). -/
def Obligations.FrontEndRefusalsSetMark : Prop :=
  ∀ (p : Word32) (s : State),
    (p.toNat % 65536 < p.toNat / 65536 →
      exec (.hostLegacySize p) s = .next { s with refused := some .negativePreTrigger }) ∧
    (s.fe.totalSamples < 4 * (p.toNat : Int) + 4 →
      exec (.hostPreTrigger p) s = .next { s with refused := some .negativePreTrigger }) ∧
    ((∃ c ∈ allCandidates s.fe, 31 < c.2.pin) →
      exec .hostRun s = .next { s with refused := some .triggerPinOutOfRange }) ∧
    ((∀ c ∈ allCandidates s.fe, c.2.pin ≤ 31) → s.fe.rate ≤ 0 →
      exec .hostRun s = .next { s with refused := some .zeroRate })

/-- The candidates are those of stages 0 to 3 in ascending order, each with its own stage's number; Translate keeps the first
four in order and reports each one after them with its stage (48 R230, R236), and is refused exactly when a candidate's pin is
above 31 (48 R237; for a dropped candidate the model's reading, log 14). -/
def Obligations.TranslateKeepsFirstFour : Prop :=
  ∀ fe : FrontEnd,
    allCandidates fe = (List.finRange 4).flatMap (fun j => (stageCandidates fe.stages[j]).map (fun c => (j.val, c))) ∧
    match translateStages fe with
    | some (ts, drops) =>
        (∀ c ∈ allCandidates fe, c.2.pin ≤ 31) ∧ ts.length ≤ 4 ∧
        ts.length + drops.length = (allCandidates fe).length ∧
        (ts.length < 4 → drops = []) ∧
        (∀ k < ts.length, ts[k]? = ((allCandidates fe)[k]?).map Prod.snd) ∧
        (∀ k < drops.length, drops[k]? = ((allCandidates fe)[4 + k]?).map (fun c => Event.diagTrigDrop c.1))
    | none => ∃ c ∈ allCandidates fe, 31 < c.2.pin

/-- Which triggers a stage asks for, each once and in ascending order of their pins (48 R231 to R235, R237): none unless its mask is not 0, START is 1 and LEVEL is 0; a parallel
stage one per set mask bit, its kind from the value bit and the override; a serial stage as its two masks give it. -/
def Obligations.StageAsksForItsTriggers : Prop :=
  ∀ r : StageRegs, (stageCandidates r).Pairwise (fun a b => a.pin < b.pin) ∧ ∀ c : Candidate,
    c ∈ stageCandidates r ↔
      r.mask ≠ 0 ∧ r.config.getLsbD 27 = true ∧ r.config.extractLsb' 16 2 = 0 ∧
      ((r.config.getLsbD 26 = false ∧ ∃ ch < 32, r.mask.getLsbD ch = true ∧ c.pin = CAPTURE_BASE.val + ch ∧
          c.kind = (if r.values.getLsbD ch then (if EDGE_OVERRIDE then .edgeHigh else .levelHigh)
            else (if EDGE_OVERRIDE then .edgeLow else .levelLow))) ∨
       (r.config.getLsbD 26 = true ∧ c.pin = CAPTURE_BASE.val + (r.config.extractLsb' 20 5).toNat ∧
          ((r.mask = 3 ∧ r.values.getLsbD 0 = false ∧ r.values.getLsbD 1 = true ∧ c.kind = .edgeHigh) ∨
           (r.mask = 3 ∧ r.values.getLsbD 0 = true ∧ r.values.getLsbD 1 = false ∧ c.kind = .edgeLow) ∨
           (r.mask = 1 ∧ r.values.getLsbD 0 = true ∧ c.kind = .levelHigh) ∨
           (r.mask = 1 ∧ r.values.getLsbD 0 = false ∧ c.kind = .levelLow))))

/-- SelectClock (48 R240): refused for a rate that is not positive; the fast clock above 5000 Hz and the slow one up to it, each
with its divisor, which never exceeds the 16-bit clamp. -/
def Obligations.SelectClockRegimes : Prop :=
  ∀ rate : Rat,
    (rate ≤ 0 → selectClock rate = none) ∧
    (0 < rate → ∃ sel, selectClock rate = some sel ∧ sel.div ≤ 65535 ∧ 0 < sel.div ∧
      sel.quant = DIV_QUANT sel.div ∧
      (5000 < rate → sel.clk = 200000000 ∧ sel.div = min (200000000 / rate) 65535) ∧
      (rate ≤ 5000 → sel.clk = 100000000 ∧ sel.div = min (100000000 / rate / 32 / 10) 65535))

/-- Block and front-end keep apart (70 R291; 00 R6): an operation of the block leaves the front-end and the host link alone,
and a host command leaves every field of the block alone but the refused mark and the events. -/
def Obligations.BlockAndFrontEndKeepApart : Prop :=
  ∀ (i : Instr) (s t : State), exec i s = .next t →
    ((∃ w, encode i = .op w) →
      t.fe = s.fe ∧ t.hostRx = s.hostRx ∧ t.hostTx = s.hostTx ∧ t.clockSel = s.clockSel ∧ t.issued = s.issued) ∧
    ((∃ bs, encode i = .host bs) →
      t = { s with
        refused := t.refused, events := t.events, fe := t.fe, hostTx := t.hostTx, clockSel := t.clockSel
        issued := t.issued })

/-! # Invariants -/

/-- The invariant holds at reset. -/
def Obligations.ResetIsCoherent : Prop := Coherent State.reset

/-- Every step keeps the invariant of 10 R46 with its strengthening: the listed clauses, the ranges, the storages' form and what
has been written where. -/
def Obligations.StepKeepsCoherent : Prop := ∀ s t : State, Coherent s → step s = .next t → Coherent t

/-- Every step keeps the storages in canonical form, whatever else holds of the state. -/
def Obligations.StepKeepsStorageForm : Prop :=
  ∀ s t : State, StorageForm s → step s = .next t → StorageForm t

/-- No read of an unwritten slot (42 R175; 20 R63): in a state that meets the invariant and holds a completed capture, every
logical read has a value; and a step from a state that meets the invariant never sets one of the two storage faults. -/
def Obligations.NoReadOfAnUnwrittenSlot : Prop :=
  (∀ s : State, Coherent s → s.dataValid = true → ∀ i : Int, ∃ v, logicalRead s i = .ok v) ∧
  (∀ s t : State, Coherent s → step s = .next t → s.faulted = none →
    t.faulted = none ∨ t.faulted = some .startWhileCapturing ∨ t.faulted = some .armDuringTransmit)
end

