-- ==== Sys2Proof/Laws/Encoding.lean ====
section
/-! SUPPORT. The laws of the encodings' fields (spec/30_encoding.md R80, R92, R93): a field of a word put together from its
fields is that field, a word is the word put together from its own fields, and a payload's bytes give it back. -/

namespace Sys2Proof

/-! ## A word from its fields -/

@[simp] theorem opField_opWord (o : BitVec 4) (a : BitVec 8) (d : Word32) : opField (opWord o a d) = o := by
  unfold opField opWord
  apply BitVec.eq_of_getLsbD_eq
  intro i hi
  simp only [BitVec.getLsbD_append, BitVec.getLsbD_extractLsb']
  grind

@[simp] theorem rsvField_opWord (o : BitVec 4) (a : BitVec 8) (d : Word32) : rsvField (opWord o a d) = 0 := by
  unfold rsvField opWord
  apply BitVec.eq_of_getLsbD_eq
  intro i hi
  simp only [BitVec.getLsbD_append, BitVec.getLsbD_extractLsb']
  grind

@[simp] theorem aField_opWord (o : BitVec 4) (a : BitVec 8) (d : Word32) : aField (opWord o a d) = a := by
  unfold aField opWord
  apply BitVec.eq_of_getLsbD_eq
  intro i hi
  simp only [BitVec.getLsbD_append, BitVec.getLsbD_extractLsb']
  grind

@[simp] theorem dField_opWord (o : BitVec 4) (a : BitVec 8) (d : Word32) : dField (opWord o a d) = d := by
  unfold dField opWord
  apply BitVec.eq_of_getLsbD_eq
  intro i hi
  simp only [BitVec.getLsbD_append, BitVec.getLsbD_extractLsb']
  grind

@[simp] theorem opField_append (o : BitVec 4) (x : BitVec 44) : opField (o ++ x : BitVec 48) = o := by
  unfold opField
  apply BitVec.eq_of_getLsbD_eq
  intro i hi
  simp only [BitVec.getLsbD_append, BitVec.getLsbD_extractLsb']
  grind

@[simp] theorem belowOp_append (o : BitVec 4) (x : BitVec 44) : belowOp (o ++ x : BitVec 48) = x := by
  unfold belowOp
  apply BitVec.eq_of_getLsbD_eq
  intro i hi
  simp only [BitVec.getLsbD_append, BitVec.getLsbD_extractLsb']
  grind

/-! ## A word is put together from its own fields -/

theorem opField_append_belowOp (w : OpWord) : opField w ++ belowOp w = w := by
  unfold opField belowOp
  apply BitVec.eq_of_getLsbD_eq
  intro i hi
  simp only [BitVec.getLsbD_append, BitVec.getLsbD_extractLsb']
  grind

theorem opWord_fields (w : OpWord) (h : rsvField w = 0) : opWord (opField w) (aField w) (dField w) = w := by
  have h' : (0#4) = rsvField w := h.symm
  unfold opWord
  rw [h']
  unfold opField aField dField rsvField
  apply BitVec.eq_of_getLsbD_eq
  intro i hi
  simp only [BitVec.getLsbD_append, BitVec.getLsbD_extractLsb']
  grind

/-! ## Decoding a word put together from fields -/

theorem decodeOp_cfgwr (r : BitVec 8) (v : Word32) (h : r.toNat < 7) :
    decodeOp (opWord 0x1 r v) = .instr (.cfgwr r v) := by
  have h' : ¬ 7 ≤ r.toNat := by omega
  simp only [decodeOp, opField_opWord, rsvField_opWord, aField_opWord, dField_opWord]
  simp [h']

theorem decodeOp_arm : decodeOp (opWord 0x2 0 0) = .instr .arm := by decide

/-! ## Host payloads -/

theorem payloadOf_bytesLE (p : Word32) : payloadOf ((bytesLE p).map some) = p := by
  unfold payloadOf bytesLE payloadByte
  apply BitVec.eq_of_getLsbD_eq
  intro i hi
  simp
  grind

/-- A command with a payload reads back from its bytes. -/
theorem pollCommand_payload {b : Byte} (p : Word32) (h : takesPayload b = true) :
    pollCommand ((b :: bytesLE p).map some) = (some (decodeCommand b p), []) := by
  have := payloadOf_bytesLE p
  simp only [List.map_cons, pollCommand, h, if_true, this]
  simp [bytesLE]

/-- A command without one reads one slot. -/
theorem pollCommand_bare {b : Byte} (rx : List (Option Byte)) (h : takesPayload b = false) :
    pollCommand (some b :: rx) = (some (decodeCommand b 0), rx) := by simp [pollCommand, h]

end Sys2Proof
end

