-- ==== Sys2Proof/Laws/Invariant.lean ====
section
/-! SUPPORT. The invariant reads the block's fields only (spec/10_state.md R46). -/

namespace Sys2Proof.Machine

/-- Two states agree on every field the invariant reads. -/
structure SameBlock (s t : State) : Prop where
  cfgTrig : t.cfgTrig = s.cfgTrig
  cfgMode : t.cfgMode = s.cfgMode
  lat : t.lat = s.lat
  acq : t.acq = s.acq
  ringEn : t.ringEn = s.ringEn
  postEn : t.postEn = s.postEn
  muxEn : t.muxEn = s.muxEn
  watchEn : t.watchEn = s.watchEn
  handoff : t.handoff = s.handoff
  ringRemaining : t.ringRemaining = s.ringRemaining
  ring : t.ring = s.ring
  post : t.post = s.post
  postCount : t.postCount = s.postCount
  winFirst : t.winFirst = s.winFirst
  winAvail : t.winAvail = s.winAvail
  underrun : t.underrun = s.underrun
  dataValid : t.dataValid = s.dataValid
  samplesReady : t.samplesReady = s.samplesReady
  txActive : t.txActive = s.txActive
  txNext : t.txNext = s.txNext
  compPending : t.compPending = s.compPending

/-- The invariant carries over to a state that agrees on those fields. -/
theorem coherent_of_same {s t : State} (hc : Coherent s) (h : SameBlock s t) : Coherent t := by
  obtain ⟨_, _, _, _, _, _, _, _, _, _, _, _, _, _, _, _, _, _, _, _, _⟩ := h
  cases s; cases t
  simp only at *
  subst_vars
  obtain ⟨l, r, f, w⟩ := hc
  exact ⟨⟨l.1, l.2, l.3, l.4, l.5, l.6, l.7, l.8, l.9⟩, ⟨r.1, r.2, r.3, r.4, r.5, r.6, r.7, r.8, r.9, r.10, r.11, r.12, r.13, r.14, r.15, r.16⟩, ⟨f.1, f.2⟩, ⟨w.1, w.2, w.3⟩⟩

end Sys2Proof.Machine
end

