-- ==== Sys2Proof/Laws/PerInstr.lean ====
section
/-! SUPPORT. Statements over all instructions, made per instruction: the shape of an encoding (spec/30_encoding.md R80, R83,
R92, R93). -/

namespace Sys2Proof.Laws.EncodingShape

/-- A well-formed instruction is encoded as an operation word whose RSV field is 0 if its OP is one the map uses (30 R83), or
as a command byte followed by exactly the payload the byte takes (30 R92). -/
def Statement (i : Instr) : Prop :=
  i.wellFormed = true →
  match encode i with
  | .op w => 1 ≤ (opField w).toNat → (opField w).toNat ≤ 9 → rsvField w = 0
  | .host bytes => ∃ b rest, bytes = b :: rest ∧ rest.length = if takesPayload b then 4 else 0

theorem of_opWord {i : Instr} {o : BitVec 4} {a : BitVec 8} {d : Word32} (h : encode i = .op (opWord o a d)) :
    Statement i := by
  intro _
  rw [h]
  intro _ _
  exact rsvField_opWord o a d

theorem of_illegal {i : Instr} {o : BitVec 4} {x : BitVec 44} (h : encode i = .op (o ++ x))
    (ho : ¬ (1 ≤ o.toNat ∧ o.toNat ≤ 9)) : Statement i := by
  intro _
  rw [h]
  intro h1 h2
  rw [opField_append] at h1 h2
  exact absurd ⟨h1, h2⟩ ho

theorem of_payload {i : Instr} {b : Byte} {p : Word32} (h : encode i = .host (b :: bytesLE p))
    (hb : takesPayload b = true) : Statement i := by
  intro _
  rw [h]
  exact ⟨b, bytesLE p, rfl, by rw [hb]; rfl⟩

theorem of_bare {i : Instr} {b : Byte} (h : encode i = .host [b])
    (hb : i.wellFormed = true → takesPayload b = false) : Statement i := by
  intro hw
  rw [h]
  exact ⟨b, [], rfl, by rw [hb hw]; rfl⟩

theorem cfgwr (r : BitVec 8) (v : Word32) : Statement (.cfgwr r v) := of_opWord rfl
theorem arm : Statement .arm := of_opWord rfl
theorem abort : Statement .abort := of_opWord rfl
theorem tick (g : Word32) : Statement (.tick g) := of_opWord rfl
theorem cirq : Statement .cirq := of_opWord rfl
theorem tirq : Statement .tirq := of_opWord rfl
theorem read (i : Word32) : Statement (.read i) := of_opWord rfl
theorem txstart : Statement .txstart := of_opWord rfl
theorem txunit (c : Bool) : Statement (.txunit c) := of_opWord rfl
theorem illegal0 (rest : BitVec 44) : Statement (.illegal0 rest) := of_illegal rfl (by decide)
theorem illegalA (rest : BitVec 44) : Statement (.illegalA rest) := of_illegal rfl (by decide)
theorem illegalB (rest : BitVec 44) : Statement (.illegalB rest) := of_illegal rfl (by decide)
theorem illegalC (rest : BitVec 44) : Statement (.illegalC rest) := of_illegal rfl (by decide)
theorem illegalD (rest : BitVec 44) : Statement (.illegalD rest) := of_illegal rfl (by decide)
theorem illegalE (rest : BitVec 44) : Statement (.illegalE rest) := of_illegal rfl (by decide)
theorem illegalF (rest : BitVec 44) : Statement (.illegalF rest) := of_illegal rfl (by decide)
theorem hostReset : Statement .hostReset := of_bare rfl (fun _ => rfl)
theorem hostRun : Statement .hostRun := of_bare rfl (fun _ => rfl)
theorem hostSendId : Statement .hostSendId := of_bare rfl (fun _ => rfl)
theorem hostSendMetadata : Statement .hostSendMetadata := of_bare rfl (fun _ => rfl)
theorem hostTrigMask0 (p : Word32) : Statement (.hostTrigMask0 p) := of_payload rfl rfl
theorem hostTrigValues0 (p : Word32) : Statement (.hostTrigValues0 p) := of_payload rfl rfl
theorem hostTrigConfig0 (p : Word32) : Statement (.hostTrigConfig0 p) := of_payload rfl rfl
theorem hostTrigMask1 (p : Word32) : Statement (.hostTrigMask1 p) := of_payload rfl rfl
theorem hostTrigValues1 (p : Word32) : Statement (.hostTrigValues1 p) := of_payload rfl rfl
theorem hostTrigConfig1 (p : Word32) : Statement (.hostTrigConfig1 p) := of_payload rfl rfl
theorem hostTrigMask2 (p : Word32) : Statement (.hostTrigMask2 p) := of_payload rfl rfl
theorem hostTrigValues2 (p : Word32) : Statement (.hostTrigValues2 p) := of_payload rfl rfl
theorem hostTrigConfig2 (p : Word32) : Statement (.hostTrigConfig2 p) := of_payload rfl rfl
theorem hostTrigMask3 (p : Word32) : Statement (.hostTrigMask3 p) := of_payload rfl rfl
theorem hostTrigValues3 (p : Word32) : Statement (.hostTrigValues3 p) := of_payload rfl rfl
theorem hostTrigConfig3 (p : Word32) : Statement (.hostTrigConfig3 p) := of_payload rfl rfl
theorem hostDivisor (p : Word32) : Statement (.hostDivisor p) := of_payload rfl rfl
theorem hostLegacySize (p : Word32) : Statement (.hostLegacySize p) := of_payload rfl rfl
theorem hostFlags (p : Word32) : Statement (.hostFlags p) := of_payload rfl rfl
theorem hostTotalSamples (p : Word32) : Statement (.hostTotalSamples p) := of_payload rfl rfl
theorem hostPreTrigger (p : Word32) : Statement (.hostPreTrigger p) := of_payload rfl rfl
theorem hostOther (b : Byte) : Statement (.hostOther b) := by
  refine of_bare rfl ?_
  decide +revert

end Sys2Proof.Laws.EncodingShape
end

