-- ==== Sys2Proof/Laws/State.lean ====
section
/-! SUPPORT. One lemma per field per named update of the state, so that no proof unfolds a record update. -/

namespace Sys2Proof.Machine

/-! ## raiseFault -/

@[simp] theorem raiseFault_cfgTotal (r : FaultReason) (s : State) : (raiseFault r s).cfgTotal = s.cfgTotal := rfl
@[simp] theorem raiseFault_cfgPre (r : FaultReason) (s : State) : (raiseFault r s).cfgPre = s.cfgPre := rfl
@[simp] theorem raiseFault_cfgTrig (r : FaultReason) (s : State) : (raiseFault r s).cfgTrig = s.cfgTrig := rfl
@[simp] theorem raiseFault_cfgMode (r : FaultReason) (s : State) : (raiseFault r s).cfgMode = s.cfgMode := rfl
@[simp] theorem raiseFault_lat (r : FaultReason) (s : State) : (raiseFault r s).lat = s.lat := rfl
@[simp] theorem raiseFault_acq (r : FaultReason) (s : State) : (raiseFault r s).acq = s.acq := rfl
@[simp] theorem raiseFault_ringEn (r : FaultReason) (s : State) : (raiseFault r s).ringEn = s.ringEn := rfl
@[simp] theorem raiseFault_postEn (r : FaultReason) (s : State) : (raiseFault r s).postEn = s.postEn := rfl
@[simp] theorem raiseFault_muxEn (r : FaultReason) (s : State) : (raiseFault r s).muxEn = s.muxEn := rfl
@[simp] theorem raiseFault_watchEn (r : FaultReason) (s : State) : (raiseFault r s).watchEn = s.watchEn := rfl
@[simp] theorem raiseFault_handoff (r : FaultReason) (s : State) : (raiseFault r s).handoff = s.handoff := rfl
@[simp] theorem raiseFault_ref (r : FaultReason) (s : State) : (raiseFault r s).ref = s.ref := rfl
@[simp] theorem raiseFault_ringRemaining (r : FaultReason) (s : State) : (raiseFault r s).ringRemaining = s.ringRemaining := rfl
@[simp] theorem raiseFault_ring (r : FaultReason) (s : State) : (raiseFault r s).ring = s.ring := rfl
@[simp] theorem raiseFault_post (r : FaultReason) (s : State) : (raiseFault r s).post = s.post := rfl
@[simp] theorem raiseFault_postCount (r : FaultReason) (s : State) : (raiseFault r s).postCount = s.postCount := rfl
@[simp] theorem raiseFault_winFirst (r : FaultReason) (s : State) : (raiseFault r s).winFirst = s.winFirst := rfl
@[simp] theorem raiseFault_winAvail (r : FaultReason) (s : State) : (raiseFault r s).winAvail = s.winAvail := rfl
@[simp] theorem raiseFault_underrun (r : FaultReason) (s : State) : (raiseFault r s).underrun = s.underrun := rfl
@[simp] theorem raiseFault_dataValid (r : FaultReason) (s : State) : (raiseFault r s).dataValid = s.dataValid := rfl
@[simp] theorem raiseFault_samplesReady (r : FaultReason) (s : State) : (raiseFault r s).samplesReady = s.samplesReady := rfl
@[simp] theorem raiseFault_txActive (r : FaultReason) (s : State) : (raiseFault r s).txActive = s.txActive := rfl
@[simp] theorem raiseFault_txNext (r : FaultReason) (s : State) : (raiseFault r s).txNext = s.txNext := rfl
@[simp] theorem raiseFault_compPending (r : FaultReason) (s : State) : (raiseFault r s).compPending = s.compPending := rfl
@[simp] theorem raiseFault_trigIrqPending (r : FaultReason) (s : State) : (raiseFault r s).trigIrqPending = s.trigIrqPending := rfl
@[simp] theorem raiseFault_txOut (r : FaultReason) (s : State) : (raiseFault r s).txOut = s.txOut := rfl
@[simp] theorem raiseFault_events (r : FaultReason) (s : State) : (raiseFault r s).events = s.events := rfl
@[simp] theorem raiseFault_faulted (r : FaultReason) (s : State) : (raiseFault r s).faulted = some r := rfl
@[simp] theorem raiseFault_refused (r : FaultReason) (s : State) : (raiseFault r s).refused = s.refused := rfl
@[simp] theorem raiseFault_fe (r : FaultReason) (s : State) : (raiseFault r s).fe = s.fe := rfl
@[simp] theorem raiseFault_hostRx (r : FaultReason) (s : State) : (raiseFault r s).hostRx = s.hostRx := rfl
@[simp] theorem raiseFault_hostTx (r : FaultReason) (s : State) : (raiseFault r s).hostTx = s.hostTx := rfl
@[simp] theorem raiseFault_clockSel (r : FaultReason) (s : State) : (raiseFault r s).clockSel = s.clockSel := rfl
@[simp] theorem raiseFault_readResult (r : FaultReason) (s : State) : (raiseFault r s).readResult = s.readResult := rfl
@[simp] theorem raiseFault_turns (r : FaultReason) (s : State) : (raiseFault r s).turns = s.turns := rfl
@[simp] theorem raiseFault_issued (r : FaultReason) (s : State) : (raiseFault r s).issued = s.issued := rfl

/-! ## refuse -/

@[simp] theorem refuse_cfgTotal (r : RefuseReason) (s : State) : (refuse r s).cfgTotal = s.cfgTotal := rfl
@[simp] theorem refuse_cfgPre (r : RefuseReason) (s : State) : (refuse r s).cfgPre = s.cfgPre := rfl
@[simp] theorem refuse_cfgTrig (r : RefuseReason) (s : State) : (refuse r s).cfgTrig = s.cfgTrig := rfl
@[simp] theorem refuse_cfgMode (r : RefuseReason) (s : State) : (refuse r s).cfgMode = s.cfgMode := rfl
@[simp] theorem refuse_lat (r : RefuseReason) (s : State) : (refuse r s).lat = s.lat := rfl
@[simp] theorem refuse_acq (r : RefuseReason) (s : State) : (refuse r s).acq = s.acq := rfl
@[simp] theorem refuse_ringEn (r : RefuseReason) (s : State) : (refuse r s).ringEn = s.ringEn := rfl
@[simp] theorem refuse_postEn (r : RefuseReason) (s : State) : (refuse r s).postEn = s.postEn := rfl
@[simp] theorem refuse_muxEn (r : RefuseReason) (s : State) : (refuse r s).muxEn = s.muxEn := rfl
@[simp] theorem refuse_watchEn (r : RefuseReason) (s : State) : (refuse r s).watchEn = s.watchEn := rfl
@[simp] theorem refuse_handoff (r : RefuseReason) (s : State) : (refuse r s).handoff = s.handoff := rfl
@[simp] theorem refuse_ref (r : RefuseReason) (s : State) : (refuse r s).ref = s.ref := rfl
@[simp] theorem refuse_ringRemaining (r : RefuseReason) (s : State) : (refuse r s).ringRemaining = s.ringRemaining := rfl
@[simp] theorem refuse_ring (r : RefuseReason) (s : State) : (refuse r s).ring = s.ring := rfl
@[simp] theorem refuse_post (r : RefuseReason) (s : State) : (refuse r s).post = s.post := rfl
@[simp] theorem refuse_postCount (r : RefuseReason) (s : State) : (refuse r s).postCount = s.postCount := rfl
@[simp] theorem refuse_winFirst (r : RefuseReason) (s : State) : (refuse r s).winFirst = s.winFirst := rfl
@[simp] theorem refuse_winAvail (r : RefuseReason) (s : State) : (refuse r s).winAvail = s.winAvail := rfl
@[simp] theorem refuse_underrun (r : RefuseReason) (s : State) : (refuse r s).underrun = s.underrun := rfl
@[simp] theorem refuse_dataValid (r : RefuseReason) (s : State) : (refuse r s).dataValid = s.dataValid := rfl
@[simp] theorem refuse_samplesReady (r : RefuseReason) (s : State) : (refuse r s).samplesReady = s.samplesReady := rfl
@[simp] theorem refuse_txActive (r : RefuseReason) (s : State) : (refuse r s).txActive = s.txActive := rfl
@[simp] theorem refuse_txNext (r : RefuseReason) (s : State) : (refuse r s).txNext = s.txNext := rfl
@[simp] theorem refuse_compPending (r : RefuseReason) (s : State) : (refuse r s).compPending = s.compPending := rfl
@[simp] theorem refuse_trigIrqPending (r : RefuseReason) (s : State) : (refuse r s).trigIrqPending = s.trigIrqPending := rfl
@[simp] theorem refuse_txOut (r : RefuseReason) (s : State) : (refuse r s).txOut = s.txOut := rfl
@[simp] theorem refuse_events (r : RefuseReason) (s : State) : (refuse r s).events = s.events := rfl
@[simp] theorem refuse_faulted (r : RefuseReason) (s : State) : (refuse r s).faulted = s.faulted := rfl
@[simp] theorem refuse_refused (r : RefuseReason) (s : State) : (refuse r s).refused = some r := rfl
@[simp] theorem refuse_fe (r : RefuseReason) (s : State) : (refuse r s).fe = s.fe := rfl
@[simp] theorem refuse_hostRx (r : RefuseReason) (s : State) : (refuse r s).hostRx = s.hostRx := rfl
@[simp] theorem refuse_hostTx (r : RefuseReason) (s : State) : (refuse r s).hostTx = s.hostTx := rfl
@[simp] theorem refuse_clockSel (r : RefuseReason) (s : State) : (refuse r s).clockSel = s.clockSel := rfl
@[simp] theorem refuse_readResult (r : RefuseReason) (s : State) : (refuse r s).readResult = s.readResult := rfl
@[simp] theorem refuse_turns (r : RefuseReason) (s : State) : (refuse r s).turns = s.turns := rfl
@[simp] theorem refuse_issued (r : RefuseReason) (s : State) : (refuse r s).issued = s.issued := rfl

/-! ## emitBytes -/

@[simp] theorem emitBytes_cfgTotal (bs : List Byte) (s : State) : (emitBytes bs s).cfgTotal = s.cfgTotal := rfl
@[simp] theorem emitBytes_cfgPre (bs : List Byte) (s : State) : (emitBytes bs s).cfgPre = s.cfgPre := rfl
@[simp] theorem emitBytes_cfgTrig (bs : List Byte) (s : State) : (emitBytes bs s).cfgTrig = s.cfgTrig := rfl
@[simp] theorem emitBytes_cfgMode (bs : List Byte) (s : State) : (emitBytes bs s).cfgMode = s.cfgMode := rfl
@[simp] theorem emitBytes_lat (bs : List Byte) (s : State) : (emitBytes bs s).lat = s.lat := rfl
@[simp] theorem emitBytes_acq (bs : List Byte) (s : State) : (emitBytes bs s).acq = s.acq := rfl
@[simp] theorem emitBytes_ringEn (bs : List Byte) (s : State) : (emitBytes bs s).ringEn = s.ringEn := rfl
@[simp] theorem emitBytes_postEn (bs : List Byte) (s : State) : (emitBytes bs s).postEn = s.postEn := rfl
@[simp] theorem emitBytes_muxEn (bs : List Byte) (s : State) : (emitBytes bs s).muxEn = s.muxEn := rfl
@[simp] theorem emitBytes_watchEn (bs : List Byte) (s : State) : (emitBytes bs s).watchEn = s.watchEn := rfl
@[simp] theorem emitBytes_handoff (bs : List Byte) (s : State) : (emitBytes bs s).handoff = s.handoff := rfl
@[simp] theorem emitBytes_ref (bs : List Byte) (s : State) : (emitBytes bs s).ref = s.ref := rfl
@[simp] theorem emitBytes_ringRemaining (bs : List Byte) (s : State) : (emitBytes bs s).ringRemaining = s.ringRemaining := rfl
@[simp] theorem emitBytes_ring (bs : List Byte) (s : State) : (emitBytes bs s).ring = s.ring := rfl
@[simp] theorem emitBytes_post (bs : List Byte) (s : State) : (emitBytes bs s).post = s.post := rfl
@[simp] theorem emitBytes_postCount (bs : List Byte) (s : State) : (emitBytes bs s).postCount = s.postCount := rfl
@[simp] theorem emitBytes_winFirst (bs : List Byte) (s : State) : (emitBytes bs s).winFirst = s.winFirst := rfl
@[simp] theorem emitBytes_winAvail (bs : List Byte) (s : State) : (emitBytes bs s).winAvail = s.winAvail := rfl
@[simp] theorem emitBytes_underrun (bs : List Byte) (s : State) : (emitBytes bs s).underrun = s.underrun := rfl
@[simp] theorem emitBytes_dataValid (bs : List Byte) (s : State) : (emitBytes bs s).dataValid = s.dataValid := rfl
@[simp] theorem emitBytes_samplesReady (bs : List Byte) (s : State) : (emitBytes bs s).samplesReady = s.samplesReady := rfl
@[simp] theorem emitBytes_txActive (bs : List Byte) (s : State) : (emitBytes bs s).txActive = s.txActive := rfl
@[simp] theorem emitBytes_txNext (bs : List Byte) (s : State) : (emitBytes bs s).txNext = s.txNext := rfl
@[simp] theorem emitBytes_compPending (bs : List Byte) (s : State) : (emitBytes bs s).compPending = s.compPending := rfl
@[simp] theorem emitBytes_trigIrqPending (bs : List Byte) (s : State) : (emitBytes bs s).trigIrqPending = s.trigIrqPending := rfl
@[simp] theorem emitBytes_txOut (bs : List Byte) (s : State) : (emitBytes bs s).txOut = s.txOut ++ bs := rfl
@[simp] theorem emitBytes_events (bs : List Byte) (s : State) : (emitBytes bs s).events = s.events := rfl
@[simp] theorem emitBytes_faulted (bs : List Byte) (s : State) : (emitBytes bs s).faulted = s.faulted := rfl
@[simp] theorem emitBytes_refused (bs : List Byte) (s : State) : (emitBytes bs s).refused = s.refused := rfl
@[simp] theorem emitBytes_fe (bs : List Byte) (s : State) : (emitBytes bs s).fe = s.fe := rfl
@[simp] theorem emitBytes_hostRx (bs : List Byte) (s : State) : (emitBytes bs s).hostRx = s.hostRx := rfl
@[simp] theorem emitBytes_hostTx (bs : List Byte) (s : State) : (emitBytes bs s).hostTx = s.hostTx := rfl
@[simp] theorem emitBytes_clockSel (bs : List Byte) (s : State) : (emitBytes bs s).clockSel = s.clockSel := rfl
@[simp] theorem emitBytes_readResult (bs : List Byte) (s : State) : (emitBytes bs s).readResult = s.readResult := rfl
@[simp] theorem emitBytes_turns (bs : List Byte) (s : State) : (emitBytes bs s).turns = s.turns := rfl
@[simp] theorem emitBytes_issued (bs : List Byte) (s : State) : (emitBytes bs s).issued = s.issued := rfl

/-! ## emitEvents -/

@[simp] theorem emitEvents_cfgTotal (es : List Event) (s : State) : (emitEvents es s).cfgTotal = s.cfgTotal := rfl
@[simp] theorem emitEvents_cfgPre (es : List Event) (s : State) : (emitEvents es s).cfgPre = s.cfgPre := rfl
@[simp] theorem emitEvents_cfgTrig (es : List Event) (s : State) : (emitEvents es s).cfgTrig = s.cfgTrig := rfl
@[simp] theorem emitEvents_cfgMode (es : List Event) (s : State) : (emitEvents es s).cfgMode = s.cfgMode := rfl
@[simp] theorem emitEvents_lat (es : List Event) (s : State) : (emitEvents es s).lat = s.lat := rfl
@[simp] theorem emitEvents_acq (es : List Event) (s : State) : (emitEvents es s).acq = s.acq := rfl
@[simp] theorem emitEvents_ringEn (es : List Event) (s : State) : (emitEvents es s).ringEn = s.ringEn := rfl
@[simp] theorem emitEvents_postEn (es : List Event) (s : State) : (emitEvents es s).postEn = s.postEn := rfl
@[simp] theorem emitEvents_muxEn (es : List Event) (s : State) : (emitEvents es s).muxEn = s.muxEn := rfl
@[simp] theorem emitEvents_watchEn (es : List Event) (s : State) : (emitEvents es s).watchEn = s.watchEn := rfl
@[simp] theorem emitEvents_handoff (es : List Event) (s : State) : (emitEvents es s).handoff = s.handoff := rfl
@[simp] theorem emitEvents_ref (es : List Event) (s : State) : (emitEvents es s).ref = s.ref := rfl
@[simp] theorem emitEvents_ringRemaining (es : List Event) (s : State) : (emitEvents es s).ringRemaining = s.ringRemaining := rfl
@[simp] theorem emitEvents_ring (es : List Event) (s : State) : (emitEvents es s).ring = s.ring := rfl
@[simp] theorem emitEvents_post (es : List Event) (s : State) : (emitEvents es s).post = s.post := rfl
@[simp] theorem emitEvents_postCount (es : List Event) (s : State) : (emitEvents es s).postCount = s.postCount := rfl
@[simp] theorem emitEvents_winFirst (es : List Event) (s : State) : (emitEvents es s).winFirst = s.winFirst := rfl
@[simp] theorem emitEvents_winAvail (es : List Event) (s : State) : (emitEvents es s).winAvail = s.winAvail := rfl
@[simp] theorem emitEvents_underrun (es : List Event) (s : State) : (emitEvents es s).underrun = s.underrun := rfl
@[simp] theorem emitEvents_dataValid (es : List Event) (s : State) : (emitEvents es s).dataValid = s.dataValid := rfl
@[simp] theorem emitEvents_samplesReady (es : List Event) (s : State) : (emitEvents es s).samplesReady = s.samplesReady := rfl
@[simp] theorem emitEvents_txActive (es : List Event) (s : State) : (emitEvents es s).txActive = s.txActive := rfl
@[simp] theorem emitEvents_txNext (es : List Event) (s : State) : (emitEvents es s).txNext = s.txNext := rfl
@[simp] theorem emitEvents_compPending (es : List Event) (s : State) : (emitEvents es s).compPending = s.compPending := rfl
@[simp] theorem emitEvents_trigIrqPending (es : List Event) (s : State) : (emitEvents es s).trigIrqPending = s.trigIrqPending := rfl
@[simp] theorem emitEvents_txOut (es : List Event) (s : State) : (emitEvents es s).txOut = s.txOut := rfl
@[simp] theorem emitEvents_events (es : List Event) (s : State) : (emitEvents es s).events = s.events ++ es := rfl
@[simp] theorem emitEvents_faulted (es : List Event) (s : State) : (emitEvents es s).faulted = s.faulted := rfl
@[simp] theorem emitEvents_refused (es : List Event) (s : State) : (emitEvents es s).refused = s.refused := rfl
@[simp] theorem emitEvents_fe (es : List Event) (s : State) : (emitEvents es s).fe = s.fe := rfl
@[simp] theorem emitEvents_hostRx (es : List Event) (s : State) : (emitEvents es s).hostRx = s.hostRx := rfl
@[simp] theorem emitEvents_hostTx (es : List Event) (s : State) : (emitEvents es s).hostTx = s.hostTx := rfl
@[simp] theorem emitEvents_clockSel (es : List Event) (s : State) : (emitEvents es s).clockSel = s.clockSel := rfl
@[simp] theorem emitEvents_readResult (es : List Event) (s : State) : (emitEvents es s).readResult = s.readResult := rfl
@[simp] theorem emitEvents_turns (es : List Event) (s : State) : (emitEvents es s).turns = s.turns := rfl
@[simp] theorem emitEvents_issued (es : List Event) (s : State) : (emitEvents es s).issued = s.issued := rfl

/-! ## sendHost -/

@[simp] theorem sendHost_cfgTotal (bs : List Byte) (s : State) : (sendHost bs s).cfgTotal = s.cfgTotal := rfl
@[simp] theorem sendHost_cfgPre (bs : List Byte) (s : State) : (sendHost bs s).cfgPre = s.cfgPre := rfl
@[simp] theorem sendHost_cfgTrig (bs : List Byte) (s : State) : (sendHost bs s).cfgTrig = s.cfgTrig := rfl
@[simp] theorem sendHost_cfgMode (bs : List Byte) (s : State) : (sendHost bs s).cfgMode = s.cfgMode := rfl
@[simp] theorem sendHost_lat (bs : List Byte) (s : State) : (sendHost bs s).lat = s.lat := rfl
@[simp] theorem sendHost_acq (bs : List Byte) (s : State) : (sendHost bs s).acq = s.acq := rfl
@[simp] theorem sendHost_ringEn (bs : List Byte) (s : State) : (sendHost bs s).ringEn = s.ringEn := rfl
@[simp] theorem sendHost_postEn (bs : List Byte) (s : State) : (sendHost bs s).postEn = s.postEn := rfl
@[simp] theorem sendHost_muxEn (bs : List Byte) (s : State) : (sendHost bs s).muxEn = s.muxEn := rfl
@[simp] theorem sendHost_watchEn (bs : List Byte) (s : State) : (sendHost bs s).watchEn = s.watchEn := rfl
@[simp] theorem sendHost_handoff (bs : List Byte) (s : State) : (sendHost bs s).handoff = s.handoff := rfl
@[simp] theorem sendHost_ref (bs : List Byte) (s : State) : (sendHost bs s).ref = s.ref := rfl
@[simp] theorem sendHost_ringRemaining (bs : List Byte) (s : State) : (sendHost bs s).ringRemaining = s.ringRemaining := rfl
@[simp] theorem sendHost_ring (bs : List Byte) (s : State) : (sendHost bs s).ring = s.ring := rfl
@[simp] theorem sendHost_post (bs : List Byte) (s : State) : (sendHost bs s).post = s.post := rfl
@[simp] theorem sendHost_postCount (bs : List Byte) (s : State) : (sendHost bs s).postCount = s.postCount := rfl
@[simp] theorem sendHost_winFirst (bs : List Byte) (s : State) : (sendHost bs s).winFirst = s.winFirst := rfl
@[simp] theorem sendHost_winAvail (bs : List Byte) (s : State) : (sendHost bs s).winAvail = s.winAvail := rfl
@[simp] theorem sendHost_underrun (bs : List Byte) (s : State) : (sendHost bs s).underrun = s.underrun := rfl
@[simp] theorem sendHost_dataValid (bs : List Byte) (s : State) : (sendHost bs s).dataValid = s.dataValid := rfl
@[simp] theorem sendHost_samplesReady (bs : List Byte) (s : State) : (sendHost bs s).samplesReady = s.samplesReady := rfl
@[simp] theorem sendHost_txActive (bs : List Byte) (s : State) : (sendHost bs s).txActive = s.txActive := rfl
@[simp] theorem sendHost_txNext (bs : List Byte) (s : State) : (sendHost bs s).txNext = s.txNext := rfl
@[simp] theorem sendHost_compPending (bs : List Byte) (s : State) : (sendHost bs s).compPending = s.compPending := rfl
@[simp] theorem sendHost_trigIrqPending (bs : List Byte) (s : State) : (sendHost bs s).trigIrqPending = s.trigIrqPending := rfl
@[simp] theorem sendHost_txOut (bs : List Byte) (s : State) : (sendHost bs s).txOut = s.txOut := rfl
@[simp] theorem sendHost_events (bs : List Byte) (s : State) : (sendHost bs s).events = s.events := rfl
@[simp] theorem sendHost_faulted (bs : List Byte) (s : State) : (sendHost bs s).faulted = s.faulted := rfl
@[simp] theorem sendHost_refused (bs : List Byte) (s : State) : (sendHost bs s).refused = s.refused := rfl
@[simp] theorem sendHost_fe (bs : List Byte) (s : State) : (sendHost bs s).fe = s.fe := rfl
@[simp] theorem sendHost_hostRx (bs : List Byte) (s : State) : (sendHost bs s).hostRx = s.hostRx := rfl
@[simp] theorem sendHost_hostTx (bs : List Byte) (s : State) : (sendHost bs s).hostTx = s.hostTx ++ bs := rfl
@[simp] theorem sendHost_clockSel (bs : List Byte) (s : State) : (sendHost bs s).clockSel = s.clockSel := rfl
@[simp] theorem sendHost_readResult (bs : List Byte) (s : State) : (sendHost bs s).readResult = s.readResult := rfl
@[simp] theorem sendHost_turns (bs : List Byte) (s : State) : (sendHost bs s).turns = s.turns := rfl
@[simp] theorem sendHost_issued (bs : List Byte) (s : State) : (sendHost bs s).issued = s.issued := rfl

/-! ## issueOps -/

@[simp] theorem issueOps_cfgTotal (ws : List OpWord) (s : State) : (issueOps ws s).cfgTotal = s.cfgTotal := rfl
@[simp] theorem issueOps_cfgPre (ws : List OpWord) (s : State) : (issueOps ws s).cfgPre = s.cfgPre := rfl
@[simp] theorem issueOps_cfgTrig (ws : List OpWord) (s : State) : (issueOps ws s).cfgTrig = s.cfgTrig := rfl
@[simp] theorem issueOps_cfgMode (ws : List OpWord) (s : State) : (issueOps ws s).cfgMode = s.cfgMode := rfl
@[simp] theorem issueOps_lat (ws : List OpWord) (s : State) : (issueOps ws s).lat = s.lat := rfl
@[simp] theorem issueOps_acq (ws : List OpWord) (s : State) : (issueOps ws s).acq = s.acq := rfl
@[simp] theorem issueOps_ringEn (ws : List OpWord) (s : State) : (issueOps ws s).ringEn = s.ringEn := rfl
@[simp] theorem issueOps_postEn (ws : List OpWord) (s : State) : (issueOps ws s).postEn = s.postEn := rfl
@[simp] theorem issueOps_muxEn (ws : List OpWord) (s : State) : (issueOps ws s).muxEn = s.muxEn := rfl
@[simp] theorem issueOps_watchEn (ws : List OpWord) (s : State) : (issueOps ws s).watchEn = s.watchEn := rfl
@[simp] theorem issueOps_handoff (ws : List OpWord) (s : State) : (issueOps ws s).handoff = s.handoff := rfl
@[simp] theorem issueOps_ref (ws : List OpWord) (s : State) : (issueOps ws s).ref = s.ref := rfl
@[simp] theorem issueOps_ringRemaining (ws : List OpWord) (s : State) : (issueOps ws s).ringRemaining = s.ringRemaining := rfl
@[simp] theorem issueOps_ring (ws : List OpWord) (s : State) : (issueOps ws s).ring = s.ring := rfl
@[simp] theorem issueOps_post (ws : List OpWord) (s : State) : (issueOps ws s).post = s.post := rfl
@[simp] theorem issueOps_postCount (ws : List OpWord) (s : State) : (issueOps ws s).postCount = s.postCount := rfl
@[simp] theorem issueOps_winFirst (ws : List OpWord) (s : State) : (issueOps ws s).winFirst = s.winFirst := rfl
@[simp] theorem issueOps_winAvail (ws : List OpWord) (s : State) : (issueOps ws s).winAvail = s.winAvail := rfl
@[simp] theorem issueOps_underrun (ws : List OpWord) (s : State) : (issueOps ws s).underrun = s.underrun := rfl
@[simp] theorem issueOps_dataValid (ws : List OpWord) (s : State) : (issueOps ws s).dataValid = s.dataValid := rfl
@[simp] theorem issueOps_samplesReady (ws : List OpWord) (s : State) : (issueOps ws s).samplesReady = s.samplesReady := rfl
@[simp] theorem issueOps_txActive (ws : List OpWord) (s : State) : (issueOps ws s).txActive = s.txActive := rfl
@[simp] theorem issueOps_txNext (ws : List OpWord) (s : State) : (issueOps ws s).txNext = s.txNext := rfl
@[simp] theorem issueOps_compPending (ws : List OpWord) (s : State) : (issueOps ws s).compPending = s.compPending := rfl
@[simp] theorem issueOps_trigIrqPending (ws : List OpWord) (s : State) : (issueOps ws s).trigIrqPending = s.trigIrqPending := rfl
@[simp] theorem issueOps_txOut (ws : List OpWord) (s : State) : (issueOps ws s).txOut = s.txOut := rfl
@[simp] theorem issueOps_events (ws : List OpWord) (s : State) : (issueOps ws s).events = s.events := rfl
@[simp] theorem issueOps_faulted (ws : List OpWord) (s : State) : (issueOps ws s).faulted = s.faulted := rfl
@[simp] theorem issueOps_refused (ws : List OpWord) (s : State) : (issueOps ws s).refused = s.refused := rfl
@[simp] theorem issueOps_fe (ws : List OpWord) (s : State) : (issueOps ws s).fe = s.fe := rfl
@[simp] theorem issueOps_hostRx (ws : List OpWord) (s : State) : (issueOps ws s).hostRx = s.hostRx := rfl
@[simp] theorem issueOps_hostTx (ws : List OpWord) (s : State) : (issueOps ws s).hostTx = s.hostTx := rfl
@[simp] theorem issueOps_clockSel (ws : List OpWord) (s : State) : (issueOps ws s).clockSel = s.clockSel := rfl
@[simp] theorem issueOps_readResult (ws : List OpWord) (s : State) : (issueOps ws s).readResult = s.readResult := rfl
@[simp] theorem issueOps_turns (ws : List OpWord) (s : State) : (issueOps ws s).turns = s.turns := rfl
@[simp] theorem issueOps_issued (ws : List OpWord) (s : State) : (issueOps ws s).issued = s.issued ++ ws := rfl

/-! ## haltUnits -/

@[simp] theorem haltUnits_cfgTotal (s : State) : (haltUnits s).cfgTotal = s.cfgTotal := rfl
@[simp] theorem haltUnits_cfgPre (s : State) : (haltUnits s).cfgPre = s.cfgPre := rfl
@[simp] theorem haltUnits_cfgTrig (s : State) : (haltUnits s).cfgTrig = s.cfgTrig := rfl
@[simp] theorem haltUnits_cfgMode (s : State) : (haltUnits s).cfgMode = s.cfgMode := rfl
@[simp] theorem haltUnits_lat (s : State) : (haltUnits s).lat = s.lat := rfl
@[simp] theorem haltUnits_acq (s : State) : (haltUnits s).acq = s.acq := rfl
@[simp] theorem haltUnits_ringEn (s : State) : (haltUnits s).ringEn = false := rfl
@[simp] theorem haltUnits_postEn (s : State) : (haltUnits s).postEn = false := rfl
@[simp] theorem haltUnits_muxEn (s : State) : (haltUnits s).muxEn = false := rfl
@[simp] theorem haltUnits_watchEn (s : State) : (haltUnits s).watchEn = false := rfl
@[simp] theorem haltUnits_handoff (s : State) : (haltUnits s).handoff = none := rfl
@[simp] theorem haltUnits_ref (s : State) : (haltUnits s).ref = s.ref := rfl
@[simp] theorem haltUnits_ringRemaining (s : State) : (haltUnits s).ringRemaining = s.ringRemaining := rfl
@[simp] theorem haltUnits_ring (s : State) : (haltUnits s).ring = s.ring := rfl
@[simp] theorem haltUnits_post (s : State) : (haltUnits s).post = s.post := rfl
@[simp] theorem haltUnits_postCount (s : State) : (haltUnits s).postCount = s.postCount := rfl
@[simp] theorem haltUnits_winFirst (s : State) : (haltUnits s).winFirst = s.winFirst := rfl
@[simp] theorem haltUnits_winAvail (s : State) : (haltUnits s).winAvail = s.winAvail := rfl
@[simp] theorem haltUnits_underrun (s : State) : (haltUnits s).underrun = s.underrun := rfl
@[simp] theorem haltUnits_dataValid (s : State) : (haltUnits s).dataValid = s.dataValid := rfl
@[simp] theorem haltUnits_samplesReady (s : State) : (haltUnits s).samplesReady = s.samplesReady := rfl
@[simp] theorem haltUnits_txActive (s : State) : (haltUnits s).txActive = s.txActive := rfl
@[simp] theorem haltUnits_txNext (s : State) : (haltUnits s).txNext = s.txNext := rfl
@[simp] theorem haltUnits_compPending (s : State) : (haltUnits s).compPending = s.compPending := rfl
@[simp] theorem haltUnits_trigIrqPending (s : State) : (haltUnits s).trigIrqPending = s.trigIrqPending := rfl
@[simp] theorem haltUnits_txOut (s : State) : (haltUnits s).txOut = s.txOut := rfl
@[simp] theorem haltUnits_events (s : State) : (haltUnits s).events = s.events := rfl
@[simp] theorem haltUnits_faulted (s : State) : (haltUnits s).faulted = s.faulted := rfl
@[simp] theorem haltUnits_refused (s : State) : (haltUnits s).refused = s.refused := rfl
@[simp] theorem haltUnits_fe (s : State) : (haltUnits s).fe = s.fe := rfl
@[simp] theorem haltUnits_hostRx (s : State) : (haltUnits s).hostRx = s.hostRx := rfl
@[simp] theorem haltUnits_hostTx (s : State) : (haltUnits s).hostTx = s.hostTx := rfl
@[simp] theorem haltUnits_clockSel (s : State) : (haltUnits s).clockSel = s.clockSel := rfl
@[simp] theorem haltUnits_readResult (s : State) : (haltUnits s).readResult = s.readResult := rfl
@[simp] theorem haltUnits_turns (s : State) : (haltUnits s).turns = s.turns := rfl
@[simp] theorem haltUnits_issued (s : State) : (haltUnits s).issued = s.issued := rfl

/-! ## endTransmission -/

@[simp] theorem endTransmission_cfgTotal (s : State) : (endTransmission s).cfgTotal = s.cfgTotal := rfl
@[simp] theorem endTransmission_cfgPre (s : State) : (endTransmission s).cfgPre = s.cfgPre := rfl
@[simp] theorem endTransmission_cfgTrig (s : State) : (endTransmission s).cfgTrig = s.cfgTrig := rfl
@[simp] theorem endTransmission_cfgMode (s : State) : (endTransmission s).cfgMode = s.cfgMode := rfl
@[simp] theorem endTransmission_lat (s : State) : (endTransmission s).lat = s.lat := rfl
@[simp] theorem endTransmission_acq (s : State) : (endTransmission s).acq = s.acq := rfl
@[simp] theorem endTransmission_ringEn (s : State) : (endTransmission s).ringEn = s.ringEn := rfl
@[simp] theorem endTransmission_postEn (s : State) : (endTransmission s).postEn = s.postEn := rfl
@[simp] theorem endTransmission_muxEn (s : State) : (endTransmission s).muxEn = s.muxEn := rfl
@[simp] theorem endTransmission_watchEn (s : State) : (endTransmission s).watchEn = s.watchEn := rfl
@[simp] theorem endTransmission_handoff (s : State) : (endTransmission s).handoff = s.handoff := rfl
@[simp] theorem endTransmission_ref (s : State) : (endTransmission s).ref = s.ref := rfl
@[simp] theorem endTransmission_ringRemaining (s : State) : (endTransmission s).ringRemaining = s.ringRemaining := rfl
@[simp] theorem endTransmission_ring (s : State) : (endTransmission s).ring = s.ring := rfl
@[simp] theorem endTransmission_post (s : State) : (endTransmission s).post = s.post := rfl
@[simp] theorem endTransmission_postCount (s : State) : (endTransmission s).postCount = s.postCount := rfl
@[simp] theorem endTransmission_winFirst (s : State) : (endTransmission s).winFirst = s.winFirst := rfl
@[simp] theorem endTransmission_winAvail (s : State) : (endTransmission s).winAvail = s.winAvail := rfl
@[simp] theorem endTransmission_underrun (s : State) : (endTransmission s).underrun = s.underrun := rfl
@[simp] theorem endTransmission_dataValid (s : State) : (endTransmission s).dataValid = s.dataValid := rfl
@[simp] theorem endTransmission_samplesReady (s : State) : (endTransmission s).samplesReady = s.samplesReady := rfl
@[simp] theorem endTransmission_txActive (s : State) : (endTransmission s).txActive = false := rfl
@[simp] theorem endTransmission_txNext (s : State) : (endTransmission s).txNext = -1 := rfl
@[simp] theorem endTransmission_compPending (s : State) : (endTransmission s).compPending = s.compPending := rfl
@[simp] theorem endTransmission_trigIrqPending (s : State) : (endTransmission s).trigIrqPending = s.trigIrqPending := rfl
@[simp] theorem endTransmission_txOut (s : State) : (endTransmission s).txOut = s.txOut := rfl
@[simp] theorem endTransmission_events (s : State) : (endTransmission s).events = s.events := rfl
@[simp] theorem endTransmission_faulted (s : State) : (endTransmission s).faulted = s.faulted := rfl
@[simp] theorem endTransmission_refused (s : State) : (endTransmission s).refused = s.refused := rfl
@[simp] theorem endTransmission_fe (s : State) : (endTransmission s).fe = s.fe := rfl
@[simp] theorem endTransmission_hostRx (s : State) : (endTransmission s).hostRx = s.hostRx := rfl
@[simp] theorem endTransmission_hostTx (s : State) : (endTransmission s).hostTx = s.hostTx := rfl
@[simp] theorem endTransmission_clockSel (s : State) : (endTransmission s).clockSel = s.clockSel := rfl
@[simp] theorem endTransmission_readResult (s : State) : (endTransmission s).readResult = s.readResult := rfl
@[simp] theorem endTransmission_turns (s : State) : (endTransmission s).turns = s.turns := rfl
@[simp] theorem endTransmission_issued (s : State) : (endTransmission s).issued = s.issued := rfl

/-! ## The sub-steps of TICK: what each leaves unchanged -/

@[simp] theorem ringStep_cfgTotal (w : Sample) (s : State) : (ringStep w s).cfgTotal = s.cfgTotal := by unfold ringStep; split <;> rfl
@[simp] theorem ringStep_cfgPre (w : Sample) (s : State) : (ringStep w s).cfgPre = s.cfgPre := by unfold ringStep; split <;> rfl
@[simp] theorem ringStep_cfgTrig (w : Sample) (s : State) : (ringStep w s).cfgTrig = s.cfgTrig := by unfold ringStep; split <;> rfl
@[simp] theorem ringStep_cfgMode (w : Sample) (s : State) : (ringStep w s).cfgMode = s.cfgMode := by unfold ringStep; split <;> rfl
@[simp] theorem ringStep_lat (w : Sample) (s : State) : (ringStep w s).lat = s.lat := by unfold ringStep; split <;> rfl
@[simp] theorem ringStep_acq (w : Sample) (s : State) : (ringStep w s).acq = s.acq := by unfold ringStep; split <;> rfl
@[simp] theorem ringStep_ringEn (w : Sample) (s : State) : (ringStep w s).ringEn = s.ringEn := by unfold ringStep; split <;> rfl
@[simp] theorem ringStep_postEn (w : Sample) (s : State) : (ringStep w s).postEn = s.postEn := by unfold ringStep; split <;> rfl
@[simp] theorem ringStep_muxEn (w : Sample) (s : State) : (ringStep w s).muxEn = s.muxEn := by unfold ringStep; split <;> rfl
@[simp] theorem ringStep_watchEn (w : Sample) (s : State) : (ringStep w s).watchEn = s.watchEn := by unfold ringStep; split <;> rfl
@[simp] theorem ringStep_handoff (w : Sample) (s : State) : (ringStep w s).handoff = s.handoff := by unfold ringStep; split <;> rfl
@[simp] theorem ringStep_ref (w : Sample) (s : State) : (ringStep w s).ref = s.ref := by unfold ringStep; split <;> rfl
@[simp] theorem ringStep_post (w : Sample) (s : State) : (ringStep w s).post = s.post := by unfold ringStep; split <;> rfl
@[simp] theorem ringStep_postCount (w : Sample) (s : State) : (ringStep w s).postCount = s.postCount := by unfold ringStep; split <;> rfl
@[simp] theorem ringStep_winFirst (w : Sample) (s : State) : (ringStep w s).winFirst = s.winFirst := by unfold ringStep; split <;> rfl
@[simp] theorem ringStep_winAvail (w : Sample) (s : State) : (ringStep w s).winAvail = s.winAvail := by unfold ringStep; split <;> rfl
@[simp] theorem ringStep_underrun (w : Sample) (s : State) : (ringStep w s).underrun = s.underrun := by unfold ringStep; split <;> rfl
@[simp] theorem ringStep_dataValid (w : Sample) (s : State) : (ringStep w s).dataValid = s.dataValid := by unfold ringStep; split <;> rfl
@[simp] theorem ringStep_samplesReady (w : Sample) (s : State) : (ringStep w s).samplesReady = s.samplesReady := by unfold ringStep; split <;> rfl
@[simp] theorem ringStep_txActive (w : Sample) (s : State) : (ringStep w s).txActive = s.txActive := by unfold ringStep; split <;> rfl
@[simp] theorem ringStep_txNext (w : Sample) (s : State) : (ringStep w s).txNext = s.txNext := by unfold ringStep; split <;> rfl
@[simp] theorem ringStep_compPending (w : Sample) (s : State) : (ringStep w s).compPending = s.compPending := by unfold ringStep; split <;> rfl
@[simp] theorem ringStep_trigIrqPending (w : Sample) (s : State) : (ringStep w s).trigIrqPending = s.trigIrqPending := by unfold ringStep; split <;> rfl
@[simp] theorem ringStep_txOut (w : Sample) (s : State) : (ringStep w s).txOut = s.txOut := by unfold ringStep; split <;> rfl
@[simp] theorem ringStep_events (w : Sample) (s : State) : (ringStep w s).events = s.events := by unfold ringStep; split <;> rfl
@[simp] theorem ringStep_faulted (w : Sample) (s : State) : (ringStep w s).faulted = s.faulted := by unfold ringStep; split <;> rfl
@[simp] theorem ringStep_refused (w : Sample) (s : State) : (ringStep w s).refused = s.refused := by unfold ringStep; split <;> rfl
@[simp] theorem ringStep_fe (w : Sample) (s : State) : (ringStep w s).fe = s.fe := by unfold ringStep; split <;> rfl
@[simp] theorem ringStep_hostRx (w : Sample) (s : State) : (ringStep w s).hostRx = s.hostRx := by unfold ringStep; split <;> rfl
@[simp] theorem ringStep_hostTx (w : Sample) (s : State) : (ringStep w s).hostTx = s.hostTx := by unfold ringStep; split <;> rfl
@[simp] theorem ringStep_clockSel (w : Sample) (s : State) : (ringStep w s).clockSel = s.clockSel := by unfold ringStep; split <;> rfl
@[simp] theorem ringStep_readResult (w : Sample) (s : State) : (ringStep w s).readResult = s.readResult := by unfold ringStep; split <;> rfl
@[simp] theorem ringStep_turns (w : Sample) (s : State) : (ringStep w s).turns = s.turns := by unfold ringStep; split <;> rfl
@[simp] theorem ringStep_issued (w : Sample) (s : State) : (ringStep w s).issued = s.issued := by unfold ringStep; split <;> rfl

@[simp] theorem postStep_cfgTotal (w : Sample) (s : State) : (postStep w s).cfgTotal = s.cfgTotal := by unfold postStep; split <;> rfl
@[simp] theorem postStep_cfgPre (w : Sample) (s : State) : (postStep w s).cfgPre = s.cfgPre := by unfold postStep; split <;> rfl
@[simp] theorem postStep_cfgTrig (w : Sample) (s : State) : (postStep w s).cfgTrig = s.cfgTrig := by unfold postStep; split <;> rfl
@[simp] theorem postStep_cfgMode (w : Sample) (s : State) : (postStep w s).cfgMode = s.cfgMode := by unfold postStep; split <;> rfl
@[simp] theorem postStep_lat (w : Sample) (s : State) : (postStep w s).lat = s.lat := by unfold postStep; split <;> rfl
@[simp] theorem postStep_acq (w : Sample) (s : State) : (postStep w s).acq = s.acq := by unfold postStep; split <;> rfl
@[simp] theorem postStep_ringEn (w : Sample) (s : State) : (postStep w s).ringEn = s.ringEn := by unfold postStep; split <;> rfl
@[simp] theorem postStep_muxEn (w : Sample) (s : State) : (postStep w s).muxEn = s.muxEn := by unfold postStep; split <;> rfl
@[simp] theorem postStep_watchEn (w : Sample) (s : State) : (postStep w s).watchEn = s.watchEn := by unfold postStep; split <;> rfl
@[simp] theorem postStep_handoff (w : Sample) (s : State) : (postStep w s).handoff = s.handoff := by unfold postStep; split <;> rfl
@[simp] theorem postStep_ref (w : Sample) (s : State) : (postStep w s).ref = s.ref := by unfold postStep; split <;> rfl
@[simp] theorem postStep_ringRemaining (w : Sample) (s : State) : (postStep w s).ringRemaining = s.ringRemaining := by unfold postStep; split <;> rfl
@[simp] theorem postStep_ring (w : Sample) (s : State) : (postStep w s).ring = s.ring := by unfold postStep; split <;> rfl
@[simp] theorem postStep_winFirst (w : Sample) (s : State) : (postStep w s).winFirst = s.winFirst := by unfold postStep; split <;> rfl
@[simp] theorem postStep_winAvail (w : Sample) (s : State) : (postStep w s).winAvail = s.winAvail := by unfold postStep; split <;> rfl
@[simp] theorem postStep_underrun (w : Sample) (s : State) : (postStep w s).underrun = s.underrun := by unfold postStep; split <;> rfl
@[simp] theorem postStep_dataValid (w : Sample) (s : State) : (postStep w s).dataValid = s.dataValid := by unfold postStep; split <;> rfl
@[simp] theorem postStep_samplesReady (w : Sample) (s : State) : (postStep w s).samplesReady = s.samplesReady := by unfold postStep; split <;> rfl
@[simp] theorem postStep_txActive (w : Sample) (s : State) : (postStep w s).txActive = s.txActive := by unfold postStep; split <;> rfl
@[simp] theorem postStep_txNext (w : Sample) (s : State) : (postStep w s).txNext = s.txNext := by unfold postStep; split <;> rfl
@[simp] theorem postStep_trigIrqPending (w : Sample) (s : State) : (postStep w s).trigIrqPending = s.trigIrqPending := by unfold postStep; split <;> rfl
@[simp] theorem postStep_txOut (w : Sample) (s : State) : (postStep w s).txOut = s.txOut := by unfold postStep; split <;> rfl
@[simp] theorem postStep_events (w : Sample) (s : State) : (postStep w s).events = s.events := by unfold postStep; split <;> rfl
@[simp] theorem postStep_faulted (w : Sample) (s : State) : (postStep w s).faulted = s.faulted := by unfold postStep; split <;> rfl
@[simp] theorem postStep_refused (w : Sample) (s : State) : (postStep w s).refused = s.refused := by unfold postStep; split <;> rfl
@[simp] theorem postStep_fe (w : Sample) (s : State) : (postStep w s).fe = s.fe := by unfold postStep; split <;> rfl
@[simp] theorem postStep_hostRx (w : Sample) (s : State) : (postStep w s).hostRx = s.hostRx := by unfold postStep; split <;> rfl
@[simp] theorem postStep_hostTx (w : Sample) (s : State) : (postStep w s).hostTx = s.hostTx := by unfold postStep; split <;> rfl
@[simp] theorem postStep_clockSel (w : Sample) (s : State) : (postStep w s).clockSel = s.clockSel := by unfold postStep; split <;> rfl
@[simp] theorem postStep_readResult (w : Sample) (s : State) : (postStep w s).readResult = s.readResult := by unfold postStep; split <;> rfl
@[simp] theorem postStep_turns (w : Sample) (s : State) : (postStep w s).turns = s.turns := by unfold postStep; split <;> rfl
@[simp] theorem postStep_issued (w : Sample) (s : State) : (postStep w s).issued = s.issued := by unfold postStep; split <;> rfl

@[simp] theorem countdownStep_cfgTotal (s : State) : (countdownStep s).cfgTotal = s.cfgTotal := by unfold countdownStep; split <;> rfl
@[simp] theorem countdownStep_cfgPre (s : State) : (countdownStep s).cfgPre = s.cfgPre := by unfold countdownStep; split <;> rfl
@[simp] theorem countdownStep_cfgTrig (s : State) : (countdownStep s).cfgTrig = s.cfgTrig := by unfold countdownStep; split <;> rfl
@[simp] theorem countdownStep_cfgMode (s : State) : (countdownStep s).cfgMode = s.cfgMode := by unfold countdownStep; split <;> rfl
@[simp] theorem countdownStep_lat (s : State) : (countdownStep s).lat = s.lat := by unfold countdownStep; split <;> rfl
@[simp] theorem countdownStep_acq (s : State) : (countdownStep s).acq = s.acq := by unfold countdownStep; split <;> rfl
@[simp] theorem countdownStep_ringEn (s : State) : (countdownStep s).ringEn = s.ringEn := by unfold countdownStep; split <;> rfl
@[simp] theorem countdownStep_postEn (s : State) : (countdownStep s).postEn = s.postEn := by unfold countdownStep; split <;> rfl
@[simp] theorem countdownStep_muxEn (s : State) : (countdownStep s).muxEn = s.muxEn := by unfold countdownStep; split <;> rfl
@[simp] theorem countdownStep_watchEn (s : State) : (countdownStep s).watchEn = s.watchEn := by unfold countdownStep; split <;> rfl
@[simp] theorem countdownStep_ref (s : State) : (countdownStep s).ref = s.ref := by unfold countdownStep; split <;> rfl
@[simp] theorem countdownStep_ringRemaining (s : State) : (countdownStep s).ringRemaining = s.ringRemaining := by unfold countdownStep; split <;> rfl
@[simp] theorem countdownStep_ring (s : State) : (countdownStep s).ring = s.ring := by unfold countdownStep; split <;> rfl
@[simp] theorem countdownStep_post (s : State) : (countdownStep s).post = s.post := by unfold countdownStep; split <;> rfl
@[simp] theorem countdownStep_postCount (s : State) : (countdownStep s).postCount = s.postCount := by unfold countdownStep; split <;> rfl
@[simp] theorem countdownStep_winFirst (s : State) : (countdownStep s).winFirst = s.winFirst := by unfold countdownStep; split <;> rfl
@[simp] theorem countdownStep_winAvail (s : State) : (countdownStep s).winAvail = s.winAvail := by unfold countdownStep; split <;> rfl
@[simp] theorem countdownStep_underrun (s : State) : (countdownStep s).underrun = s.underrun := by unfold countdownStep; split <;> rfl
@[simp] theorem countdownStep_dataValid (s : State) : (countdownStep s).dataValid = s.dataValid := by unfold countdownStep; split <;> rfl
@[simp] theorem countdownStep_samplesReady (s : State) : (countdownStep s).samplesReady = s.samplesReady := by unfold countdownStep; split <;> rfl
@[simp] theorem countdownStep_txActive (s : State) : (countdownStep s).txActive = s.txActive := by unfold countdownStep; split <;> rfl
@[simp] theorem countdownStep_txNext (s : State) : (countdownStep s).txNext = s.txNext := by unfold countdownStep; split <;> rfl
@[simp] theorem countdownStep_compPending (s : State) : (countdownStep s).compPending = s.compPending := by unfold countdownStep; split <;> rfl
@[simp] theorem countdownStep_trigIrqPending (s : State) : (countdownStep s).trigIrqPending = s.trigIrqPending := by unfold countdownStep; split <;> rfl
@[simp] theorem countdownStep_txOut (s : State) : (countdownStep s).txOut = s.txOut := by unfold countdownStep; split <;> rfl
@[simp] theorem countdownStep_events (s : State) : (countdownStep s).events = s.events := by unfold countdownStep; split <;> rfl
@[simp] theorem countdownStep_faulted (s : State) : (countdownStep s).faulted = s.faulted := by unfold countdownStep; split <;> rfl
@[simp] theorem countdownStep_refused (s : State) : (countdownStep s).refused = s.refused := by unfold countdownStep; split <;> rfl
@[simp] theorem countdownStep_fe (s : State) : (countdownStep s).fe = s.fe := by unfold countdownStep; split <;> rfl
@[simp] theorem countdownStep_hostRx (s : State) : (countdownStep s).hostRx = s.hostRx := by unfold countdownStep; split <;> rfl
@[simp] theorem countdownStep_hostTx (s : State) : (countdownStep s).hostTx = s.hostTx := by unfold countdownStep; split <;> rfl
@[simp] theorem countdownStep_clockSel (s : State) : (countdownStep s).clockSel = s.clockSel := by unfold countdownStep; split <;> rfl
@[simp] theorem countdownStep_readResult (s : State) : (countdownStep s).readResult = s.readResult := by unfold countdownStep; split <;> rfl
@[simp] theorem countdownStep_turns (s : State) : (countdownStep s).turns = s.turns := by unfold countdownStep; split <;> rfl
@[simp] theorem countdownStep_issued (s : State) : (countdownStep s).issued = s.issued := by unfold countdownStep; split <;> rfl

@[simp] theorem triggerStep_cfgTotal (g : Word32) (s : State) : (triggerStep g s).cfgTotal = s.cfgTotal := by unfold triggerStep; split <;> [split <;> rfl; rfl]
@[simp] theorem triggerStep_cfgPre (g : Word32) (s : State) : (triggerStep g s).cfgPre = s.cfgPre := by unfold triggerStep; split <;> [split <;> rfl; rfl]
@[simp] theorem triggerStep_cfgTrig (g : Word32) (s : State) : (triggerStep g s).cfgTrig = s.cfgTrig := by unfold triggerStep; split <;> [split <;> rfl; rfl]
@[simp] theorem triggerStep_cfgMode (g : Word32) (s : State) : (triggerStep g s).cfgMode = s.cfgMode := by unfold triggerStep; split <;> [split <;> rfl; rfl]
@[simp] theorem triggerStep_lat (g : Word32) (s : State) : (triggerStep g s).lat = s.lat := by unfold triggerStep; split <;> [split <;> rfl; rfl]
@[simp] theorem triggerStep_acq (g : Word32) (s : State) : (triggerStep g s).acq = s.acq := by unfold triggerStep; split <;> [split <;> rfl; rfl]
@[simp] theorem triggerStep_ringEn (g : Word32) (s : State) : (triggerStep g s).ringEn = s.ringEn := by unfold triggerStep; split <;> [split <;> rfl; rfl]
@[simp] theorem triggerStep_postEn (g : Word32) (s : State) : (triggerStep g s).postEn = s.postEn := by unfold triggerStep; split <;> [split <;> rfl; rfl]
@[simp] theorem triggerStep_muxEn (g : Word32) (s : State) : (triggerStep g s).muxEn = s.muxEn := by unfold triggerStep; split <;> [split <;> rfl; rfl]
@[simp] theorem triggerStep_watchEn (g : Word32) (s : State) : (triggerStep g s).watchEn = s.watchEn := by unfold triggerStep; split <;> [split <;> rfl; rfl]
@[simp] theorem triggerStep_ringRemaining (g : Word32) (s : State) : (triggerStep g s).ringRemaining = s.ringRemaining := by unfold triggerStep; split <;> [split <;> rfl; rfl]
@[simp] theorem triggerStep_ring (g : Word32) (s : State) : (triggerStep g s).ring = s.ring := by unfold triggerStep; split <;> [split <;> rfl; rfl]
@[simp] theorem triggerStep_post (g : Word32) (s : State) : (triggerStep g s).post = s.post := by unfold triggerStep; split <;> [split <;> rfl; rfl]
@[simp] theorem triggerStep_postCount (g : Word32) (s : State) : (triggerStep g s).postCount = s.postCount := by unfold triggerStep; split <;> [split <;> rfl; rfl]
@[simp] theorem triggerStep_winFirst (g : Word32) (s : State) : (triggerStep g s).winFirst = s.winFirst := by unfold triggerStep; split <;> [split <;> rfl; rfl]
@[simp] theorem triggerStep_winAvail (g : Word32) (s : State) : (triggerStep g s).winAvail = s.winAvail := by unfold triggerStep; split <;> [split <;> rfl; rfl]
@[simp] theorem triggerStep_underrun (g : Word32) (s : State) : (triggerStep g s).underrun = s.underrun := by unfold triggerStep; split <;> [split <;> rfl; rfl]
@[simp] theorem triggerStep_dataValid (g : Word32) (s : State) : (triggerStep g s).dataValid = s.dataValid := by unfold triggerStep; split <;> [split <;> rfl; rfl]
@[simp] theorem triggerStep_samplesReady (g : Word32) (s : State) : (triggerStep g s).samplesReady = s.samplesReady := by unfold triggerStep; split <;> [split <;> rfl; rfl]
@[simp] theorem triggerStep_txActive (g : Word32) (s : State) : (triggerStep g s).txActive = s.txActive := by unfold triggerStep; split <;> [split <;> rfl; rfl]
@[simp] theorem triggerStep_txNext (g : Word32) (s : State) : (triggerStep g s).txNext = s.txNext := by unfold triggerStep; split <;> [split <;> rfl; rfl]
@[simp] theorem triggerStep_compPending (g : Word32) (s : State) : (triggerStep g s).compPending = s.compPending := by unfold triggerStep; split <;> [split <;> rfl; rfl]
@[simp] theorem triggerStep_txOut (g : Word32) (s : State) : (triggerStep g s).txOut = s.txOut := by unfold triggerStep; split <;> [split <;> rfl; rfl]
@[simp] theorem triggerStep_events (g : Word32) (s : State) : (triggerStep g s).events = s.events := by unfold triggerStep; split <;> [split <;> rfl; rfl]
@[simp] theorem triggerStep_faulted (g : Word32) (s : State) : (triggerStep g s).faulted = s.faulted := by unfold triggerStep; split <;> [split <;> rfl; rfl]
@[simp] theorem triggerStep_refused (g : Word32) (s : State) : (triggerStep g s).refused = s.refused := by unfold triggerStep; split <;> [split <;> rfl; rfl]
@[simp] theorem triggerStep_fe (g : Word32) (s : State) : (triggerStep g s).fe = s.fe := by unfold triggerStep; split <;> [split <;> rfl; rfl]
@[simp] theorem triggerStep_hostRx (g : Word32) (s : State) : (triggerStep g s).hostRx = s.hostRx := by unfold triggerStep; split <;> [split <;> rfl; rfl]
@[simp] theorem triggerStep_hostTx (g : Word32) (s : State) : (triggerStep g s).hostTx = s.hostTx := by unfold triggerStep; split <;> [split <;> rfl; rfl]
@[simp] theorem triggerStep_clockSel (g : Word32) (s : State) : (triggerStep g s).clockSel = s.clockSel := by unfold triggerStep; split <;> [split <;> rfl; rfl]
@[simp] theorem triggerStep_readResult (g : Word32) (s : State) : (triggerStep g s).readResult = s.readResult := by unfold triggerStep; split <;> [split <;> rfl; rfl]
@[simp] theorem triggerStep_turns (g : Word32) (s : State) : (triggerStep g s).turns = s.turns := by unfold triggerStep; split <;> [split <;> rfl; rfl]
@[simp] theorem triggerStep_issued (g : Word32) (s : State) : (triggerStep g s).issued = s.issued := by unfold triggerStep; split <;> [split <;> rfl; rfl]

@[simp] theorem handoffStep_cfgTotal (s : State) : (handoffStep s).cfgTotal = s.cfgTotal := by unfold handoffStep; split <;> rfl
@[simp] theorem handoffStep_cfgPre (s : State) : (handoffStep s).cfgPre = s.cfgPre := by unfold handoffStep; split <;> rfl
@[simp] theorem handoffStep_cfgTrig (s : State) : (handoffStep s).cfgTrig = s.cfgTrig := by unfold handoffStep; split <;> rfl
@[simp] theorem handoffStep_cfgMode (s : State) : (handoffStep s).cfgMode = s.cfgMode := by unfold handoffStep; split <;> rfl
@[simp] theorem handoffStep_lat (s : State) : (handoffStep s).lat = s.lat := by unfold handoffStep; split <;> rfl
@[simp] theorem handoffStep_acq (s : State) : (handoffStep s).acq = s.acq := by unfold handoffStep; split <;> rfl
@[simp] theorem handoffStep_ref (s : State) : (handoffStep s).ref = s.ref := by unfold handoffStep; split <;> rfl
@[simp] theorem handoffStep_ringRemaining (s : State) : (handoffStep s).ringRemaining = s.ringRemaining := by unfold handoffStep; split <;> rfl
@[simp] theorem handoffStep_ring (s : State) : (handoffStep s).ring = s.ring := by unfold handoffStep; split <;> rfl
@[simp] theorem handoffStep_post (s : State) : (handoffStep s).post = s.post := by unfold handoffStep; split <;> rfl
@[simp] theorem handoffStep_postCount (s : State) : (handoffStep s).postCount = s.postCount := by unfold handoffStep; split <;> rfl
@[simp] theorem handoffStep_winFirst (s : State) : (handoffStep s).winFirst = s.winFirst := by unfold handoffStep; split <;> rfl
@[simp] theorem handoffStep_winAvail (s : State) : (handoffStep s).winAvail = s.winAvail := by unfold handoffStep; split <;> rfl
@[simp] theorem handoffStep_underrun (s : State) : (handoffStep s).underrun = s.underrun := by unfold handoffStep; split <;> rfl
@[simp] theorem handoffStep_dataValid (s : State) : (handoffStep s).dataValid = s.dataValid := by unfold handoffStep; split <;> rfl
@[simp] theorem handoffStep_samplesReady (s : State) : (handoffStep s).samplesReady = s.samplesReady := by unfold handoffStep; split <;> rfl
@[simp] theorem handoffStep_txActive (s : State) : (handoffStep s).txActive = s.txActive := by unfold handoffStep; split <;> rfl
@[simp] theorem handoffStep_txNext (s : State) : (handoffStep s).txNext = s.txNext := by unfold handoffStep; split <;> rfl
@[simp] theorem handoffStep_compPending (s : State) : (handoffStep s).compPending = s.compPending := by unfold handoffStep; split <;> rfl
@[simp] theorem handoffStep_trigIrqPending (s : State) : (handoffStep s).trigIrqPending = s.trigIrqPending := by unfold handoffStep; split <;> rfl
@[simp] theorem handoffStep_txOut (s : State) : (handoffStep s).txOut = s.txOut := by unfold handoffStep; split <;> rfl
@[simp] theorem handoffStep_events (s : State) : (handoffStep s).events = s.events := by unfold handoffStep; split <;> rfl
@[simp] theorem handoffStep_faulted (s : State) : (handoffStep s).faulted = s.faulted := by unfold handoffStep; split <;> rfl
@[simp] theorem handoffStep_refused (s : State) : (handoffStep s).refused = s.refused := by unfold handoffStep; split <;> rfl
@[simp] theorem handoffStep_fe (s : State) : (handoffStep s).fe = s.fe := by unfold handoffStep; split <;> rfl
@[simp] theorem handoffStep_hostRx (s : State) : (handoffStep s).hostRx = s.hostRx := by unfold handoffStep; split <;> rfl
@[simp] theorem handoffStep_hostTx (s : State) : (handoffStep s).hostTx = s.hostTx := by unfold handoffStep; split <;> rfl
@[simp] theorem handoffStep_clockSel (s : State) : (handoffStep s).clockSel = s.clockSel := by unfold handoffStep; split <;> rfl
@[simp] theorem handoffStep_readResult (s : State) : (handoffStep s).readResult = s.readResult := by unfold handoffStep; split <;> rfl
@[simp] theorem handoffStep_turns (s : State) : (handoffStep s).turns = s.turns := by unfold handoffStep; split <;> rfl
@[simp] theorem handoffStep_issued (s : State) : (handoffStep s).issued = s.issued := by unfold handoffStep; split <;> rfl

/-! ## sampleTick: what a TICK leaves unchanged -/

@[simp] theorem sampleTick_cfgTotal (g : Word32) (s : State) : (sampleTick g s).cfgTotal = s.cfgTotal := by simp [sampleTick]
@[simp] theorem sampleTick_cfgPre (g : Word32) (s : State) : (sampleTick g s).cfgPre = s.cfgPre := by simp [sampleTick]
@[simp] theorem sampleTick_cfgTrig (g : Word32) (s : State) : (sampleTick g s).cfgTrig = s.cfgTrig := by simp [sampleTick]
@[simp] theorem sampleTick_cfgMode (g : Word32) (s : State) : (sampleTick g s).cfgMode = s.cfgMode := by simp [sampleTick]
@[simp] theorem sampleTick_lat (g : Word32) (s : State) : (sampleTick g s).lat = s.lat := by simp [sampleTick]
@[simp] theorem sampleTick_acq (g : Word32) (s : State) : (sampleTick g s).acq = s.acq := by simp [sampleTick]
@[simp] theorem sampleTick_winFirst (g : Word32) (s : State) : (sampleTick g s).winFirst = s.winFirst := by simp [sampleTick]
@[simp] theorem sampleTick_winAvail (g : Word32) (s : State) : (sampleTick g s).winAvail = s.winAvail := by simp [sampleTick]
@[simp] theorem sampleTick_underrun (g : Word32) (s : State) : (sampleTick g s).underrun = s.underrun := by simp [sampleTick]
@[simp] theorem sampleTick_dataValid (g : Word32) (s : State) : (sampleTick g s).dataValid = s.dataValid := by simp [sampleTick]
@[simp] theorem sampleTick_samplesReady (g : Word32) (s : State) : (sampleTick g s).samplesReady = s.samplesReady := by simp [sampleTick]
@[simp] theorem sampleTick_txActive (g : Word32) (s : State) : (sampleTick g s).txActive = s.txActive := by simp [sampleTick]
@[simp] theorem sampleTick_txNext (g : Word32) (s : State) : (sampleTick g s).txNext = s.txNext := by simp [sampleTick]
@[simp] theorem sampleTick_txOut (g : Word32) (s : State) : (sampleTick g s).txOut = s.txOut := by simp [sampleTick]
@[simp] theorem sampleTick_events (g : Word32) (s : State) : (sampleTick g s).events = s.events := by simp [sampleTick]
@[simp] theorem sampleTick_faulted (g : Word32) (s : State) : (sampleTick g s).faulted = s.faulted := by simp [sampleTick]
@[simp] theorem sampleTick_refused (g : Word32) (s : State) : (sampleTick g s).refused = s.refused := by simp [sampleTick]
@[simp] theorem sampleTick_fe (g : Word32) (s : State) : (sampleTick g s).fe = s.fe := by simp [sampleTick]
@[simp] theorem sampleTick_hostRx (g : Word32) (s : State) : (sampleTick g s).hostRx = s.hostRx := by simp [sampleTick]
@[simp] theorem sampleTick_hostTx (g : Word32) (s : State) : (sampleTick g s).hostTx = s.hostTx := by simp [sampleTick]
@[simp] theorem sampleTick_clockSel (g : Word32) (s : State) : (sampleTick g s).clockSel = s.clockSel := by simp [sampleTick]
@[simp] theorem sampleTick_readResult (g : Word32) (s : State) : (sampleTick g s).readResult = s.readResult := by simp [sampleTick]
@[simp] theorem sampleTick_turns (g : Word32) (s : State) : (sampleTick g s).turns = s.turns := by simp [sampleTick]
@[simp] theorem sampleTick_issued (g : Word32) (s : State) : (sampleTick g s).issued = s.issued := by simp [sampleTick]

/-! ## startCapture -/

@[simp] theorem startCapture_cfgTotal (l : Latched) (s : State) : (startCapture l s).cfgTotal = s.cfgTotal := rfl
@[simp] theorem startCapture_cfgPre (l : Latched) (s : State) : (startCapture l s).cfgPre = s.cfgPre := rfl
@[simp] theorem startCapture_cfgTrig (l : Latched) (s : State) : (startCapture l s).cfgTrig = s.cfgTrig := rfl
@[simp] theorem startCapture_cfgMode (l : Latched) (s : State) : (startCapture l s).cfgMode = s.cfgMode := rfl
@[simp] theorem startCapture_lat (l : Latched) (s : State) : (startCapture l s).lat = l := rfl
@[simp] theorem startCapture_acq (l : Latched) (s : State) : (startCapture l s).acq = .capturing := rfl
@[simp] theorem startCapture_ringEn (l : Latched) (s : State) : (startCapture l s).ringEn = true := rfl
@[simp] theorem startCapture_postEn (l : Latched) (s : State) : (startCapture l s).postEn = !decide (0 < l.ntrig) := rfl
@[simp] theorem startCapture_muxEn (l : Latched) (s : State) : (startCapture l s).muxEn = decide (0 < l.ntrig) := rfl
@[simp] theorem startCapture_watchEn (l : Latched) (s : State) : (startCapture l s).watchEn = decide (0 < l.ntrig) := rfl
@[simp] theorem startCapture_handoff (l : Latched) (s : State) : (startCapture l s).handoff = none := rfl
@[simp] theorem startCapture_ref (l : Latched) (s : State) : (startCapture l s).ref = #v[Config.EDGE_REF_INIT, Config.EDGE_REF_INIT, Config.EDGE_REF_INIT, Config.EDGE_REF_INIT] := rfl
@[simp] theorem startCapture_ringRemaining (l : Latched) (s : State) : (startCapture l s).ringRemaining = Config.INITIAL_COUNT := rfl
@[simp] theorem startCapture_ring (l : Latched) (s : State) : (startCapture l s).ring = s.ring := rfl
@[simp] theorem startCapture_post (l : Latched) (s : State) : (startCapture l s).post = s.post := rfl
@[simp] theorem startCapture_postCount (l : Latched) (s : State) : (startCapture l s).postCount = 0 := rfl
@[simp] theorem startCapture_winFirst (l : Latched) (s : State) : (startCapture l s).winFirst = 0 := rfl
@[simp] theorem startCapture_winAvail (l : Latched) (s : State) : (startCapture l s).winAvail = 0 := rfl
@[simp] theorem startCapture_underrun (l : Latched) (s : State) : (startCapture l s).underrun = false := rfl
@[simp] theorem startCapture_dataValid (l : Latched) (s : State) : (startCapture l s).dataValid = false := rfl
@[simp] theorem startCapture_samplesReady (l : Latched) (s : State) : (startCapture l s).samplesReady = false := rfl
@[simp] theorem startCapture_txActive (l : Latched) (s : State) : (startCapture l s).txActive = s.txActive := rfl
@[simp] theorem startCapture_txNext (l : Latched) (s : State) : (startCapture l s).txNext = s.txNext := rfl
@[simp] theorem startCapture_compPending (l : Latched) (s : State) : (startCapture l s).compPending = false := rfl
@[simp] theorem startCapture_trigIrqPending (l : Latched) (s : State) : (startCapture l s).trigIrqPending = s.trigIrqPending := rfl
@[simp] theorem startCapture_txOut (l : Latched) (s : State) : (startCapture l s).txOut = s.txOut := rfl
@[simp] theorem startCapture_events (l : Latched) (s : State) : (startCapture l s).events = s.events := rfl
@[simp] theorem startCapture_faulted (l : Latched) (s : State) : (startCapture l s).faulted = s.faulted := rfl
@[simp] theorem startCapture_refused (l : Latched) (s : State) : (startCapture l s).refused = s.refused := rfl
@[simp] theorem startCapture_fe (l : Latched) (s : State) : (startCapture l s).fe = s.fe := rfl
@[simp] theorem startCapture_hostRx (l : Latched) (s : State) : (startCapture l s).hostRx = s.hostRx := rfl
@[simp] theorem startCapture_hostTx (l : Latched) (s : State) : (startCapture l s).hostTx = s.hostTx := rfl
@[simp] theorem startCapture_clockSel (l : Latched) (s : State) : (startCapture l s).clockSel = s.clockSel := rfl
@[simp] theorem startCapture_readResult (l : Latched) (s : State) : (startCapture l s).readResult = s.readResult := rfl
@[simp] theorem startCapture_turns (l : Latched) (s : State) : (startCapture l s).turns = s.turns := rfl
@[simp] theorem startCapture_issued (l : Latched) (s : State) : (startCapture l s).issued = s.issued := rfl

/-! ## completeCapture -/

@[simp] theorem completeCapture_cfgTotal (s : State) : (completeCapture s).cfgTotal = s.cfgTotal := rfl
@[simp] theorem completeCapture_cfgPre (s : State) : (completeCapture s).cfgPre = s.cfgPre := rfl
@[simp] theorem completeCapture_cfgTrig (s : State) : (completeCapture s).cfgTrig = s.cfgTrig := rfl
@[simp] theorem completeCapture_cfgMode (s : State) : (completeCapture s).cfgMode = s.cfgMode := rfl
@[simp] theorem completeCapture_lat (s : State) : (completeCapture s).lat = s.lat := rfl
@[simp] theorem completeCapture_acq (s : State) : (completeCapture s).acq = .idle := rfl
@[simp] theorem completeCapture_ringEn (s : State) : (completeCapture s).ringEn = false := rfl
@[simp] theorem completeCapture_postEn (s : State) : (completeCapture s).postEn = false := rfl
@[simp] theorem completeCapture_muxEn (s : State) : (completeCapture s).muxEn = false := rfl
@[simp] theorem completeCapture_watchEn (s : State) : (completeCapture s).watchEn = false := rfl
@[simp] theorem completeCapture_handoff (s : State) : (completeCapture s).handoff = none := rfl
@[simp] theorem completeCapture_ref (s : State) : (completeCapture s).ref = s.ref := rfl
@[simp] theorem completeCapture_ringRemaining (s : State) : (completeCapture s).ringRemaining = s.ringRemaining := rfl
@[simp] theorem completeCapture_ring (s : State) : (completeCapture s).ring = s.ring := rfl
@[simp] theorem completeCapture_post (s : State) : (completeCapture s).post = s.post := rfl
@[simp] theorem completeCapture_postCount (s : State) : (completeCapture s).postCount = s.postCount := rfl
@[simp] theorem completeCapture_winFirst (s : State) : (completeCapture s).winFirst = (window (writtenSinceArm s) s.lat.pre).1 := rfl
@[simp] theorem completeCapture_winAvail (s : State) : (completeCapture s).winAvail = (window (writtenSinceArm s) s.lat.pre).2 := rfl
@[simp] theorem completeCapture_underrun (s : State) : (completeCapture s).underrun = decide ((window (writtenSinceArm s) s.lat.pre).2 < s.lat.pre) := rfl
@[simp] theorem completeCapture_dataValid (s : State) : (completeCapture s).dataValid = true := rfl
@[simp] theorem completeCapture_samplesReady (s : State) : (completeCapture s).samplesReady = true := rfl
@[simp] theorem completeCapture_txActive (s : State) : (completeCapture s).txActive = s.txActive := rfl
@[simp] theorem completeCapture_txNext (s : State) : (completeCapture s).txNext = s.txNext := rfl
@[simp] theorem completeCapture_compPending (s : State) : (completeCapture s).compPending = false := rfl
@[simp] theorem completeCapture_trigIrqPending (s : State) : (completeCapture s).trigIrqPending = s.trigIrqPending := rfl
@[simp] theorem completeCapture_txOut (s : State) : (completeCapture s).txOut = s.txOut := rfl
@[simp] theorem completeCapture_events (s : State) : (completeCapture s).events = s.events ++ [.onComplete (window (writtenSinceArm s) s.lat.pre).2] := rfl
@[simp] theorem completeCapture_faulted (s : State) : (completeCapture s).faulted = s.faulted := rfl
@[simp] theorem completeCapture_refused (s : State) : (completeCapture s).refused = s.refused := rfl
@[simp] theorem completeCapture_fe (s : State) : (completeCapture s).fe = s.fe := rfl
@[simp] theorem completeCapture_hostRx (s : State) : (completeCapture s).hostRx = s.hostRx := rfl
@[simp] theorem completeCapture_hostTx (s : State) : (completeCapture s).hostTx = s.hostTx := rfl
@[simp] theorem completeCapture_clockSel (s : State) : (completeCapture s).clockSel = s.clockSel := rfl
@[simp] theorem completeCapture_readResult (s : State) : (completeCapture s).readResult = s.readResult := rfl
@[simp] theorem completeCapture_turns (s : State) : (completeCapture s).turns = s.turns := rfl
@[simp] theorem completeCapture_issued (s : State) : (completeCapture s).issued = s.issued := rfl

/-! ## updateStage -/

@[simp] theorem updateStage_cfgTotal (j : Fin 4) (f : StageRegs → StageRegs) (s : State) :
    (updateStage j f s).cfgTotal = s.cfgTotal := rfl
@[simp] theorem updateStage_cfgPre (j : Fin 4) (f : StageRegs → StageRegs) (s : State) :
    (updateStage j f s).cfgPre = s.cfgPre := rfl
@[simp] theorem updateStage_cfgTrig (j : Fin 4) (f : StageRegs → StageRegs) (s : State) :
    (updateStage j f s).cfgTrig = s.cfgTrig := rfl
@[simp] theorem updateStage_cfgMode (j : Fin 4) (f : StageRegs → StageRegs) (s : State) :
    (updateStage j f s).cfgMode = s.cfgMode := rfl
@[simp] theorem updateStage_lat (j : Fin 4) (f : StageRegs → StageRegs) (s : State) :
    (updateStage j f s).lat = s.lat := rfl
@[simp] theorem updateStage_acq (j : Fin 4) (f : StageRegs → StageRegs) (s : State) :
    (updateStage j f s).acq = s.acq := rfl
@[simp] theorem updateStage_ringEn (j : Fin 4) (f : StageRegs → StageRegs) (s : State) :
    (updateStage j f s).ringEn = s.ringEn := rfl
@[simp] theorem updateStage_postEn (j : Fin 4) (f : StageRegs → StageRegs) (s : State) :
    (updateStage j f s).postEn = s.postEn := rfl
@[simp] theorem updateStage_muxEn (j : Fin 4) (f : StageRegs → StageRegs) (s : State) :
    (updateStage j f s).muxEn = s.muxEn := rfl
@[simp] theorem updateStage_watchEn (j : Fin 4) (f : StageRegs → StageRegs) (s : State) :
    (updateStage j f s).watchEn = s.watchEn := rfl
@[simp] theorem updateStage_handoff (j : Fin 4) (f : StageRegs → StageRegs) (s : State) :
    (updateStage j f s).handoff = s.handoff := rfl
@[simp] theorem updateStage_ref (j : Fin 4) (f : StageRegs → StageRegs) (s : State) :
    (updateStage j f s).ref = s.ref := rfl
@[simp] theorem updateStage_ringRemaining (j : Fin 4) (f : StageRegs → StageRegs) (s : State) :
    (updateStage j f s).ringRemaining = s.ringRemaining := rfl
@[simp] theorem updateStage_ring (j : Fin 4) (f : StageRegs → StageRegs) (s : State) :
    (updateStage j f s).ring = s.ring := rfl
@[simp] theorem updateStage_post (j : Fin 4) (f : StageRegs → StageRegs) (s : State) :
    (updateStage j f s).post = s.post := rfl
@[simp] theorem updateStage_postCount (j : Fin 4) (f : StageRegs → StageRegs) (s : State) :
    (updateStage j f s).postCount = s.postCount := rfl
@[simp] theorem updateStage_winFirst (j : Fin 4) (f : StageRegs → StageRegs) (s : State) :
    (updateStage j f s).winFirst = s.winFirst := rfl
@[simp] theorem updateStage_winAvail (j : Fin 4) (f : StageRegs → StageRegs) (s : State) :
    (updateStage j f s).winAvail = s.winAvail := rfl
@[simp] theorem updateStage_underrun (j : Fin 4) (f : StageRegs → StageRegs) (s : State) :
    (updateStage j f s).underrun = s.underrun := rfl
@[simp] theorem updateStage_dataValid (j : Fin 4) (f : StageRegs → StageRegs) (s : State) :
    (updateStage j f s).dataValid = s.dataValid := rfl
@[simp] theorem updateStage_samplesReady (j : Fin 4) (f : StageRegs → StageRegs) (s : State) :
    (updateStage j f s).samplesReady = s.samplesReady := rfl
@[simp] theorem updateStage_txActive (j : Fin 4) (f : StageRegs → StageRegs) (s : State) :
    (updateStage j f s).txActive = s.txActive := rfl
@[simp] theorem updateStage_txNext (j : Fin 4) (f : StageRegs → StageRegs) (s : State) :
    (updateStage j f s).txNext = s.txNext := rfl
@[simp] theorem updateStage_compPending (j : Fin 4) (f : StageRegs → StageRegs) (s : State) :
    (updateStage j f s).compPending = s.compPending := rfl
@[simp] theorem updateStage_trigIrqPending (j : Fin 4) (f : StageRegs → StageRegs) (s : State) :
    (updateStage j f s).trigIrqPending = s.trigIrqPending := rfl
@[simp] theorem updateStage_txOut (j : Fin 4) (f : StageRegs → StageRegs) (s : State) :
    (updateStage j f s).txOut = s.txOut := rfl
@[simp] theorem updateStage_events (j : Fin 4) (f : StageRegs → StageRegs) (s : State) :
    (updateStage j f s).events = s.events := rfl
@[simp] theorem updateStage_faulted (j : Fin 4) (f : StageRegs → StageRegs) (s : State) :
    (updateStage j f s).faulted = s.faulted := rfl
@[simp] theorem updateStage_refused (j : Fin 4) (f : StageRegs → StageRegs) (s : State) :
    (updateStage j f s).refused = s.refused := rfl
@[simp] theorem updateStage_fe (j : Fin 4) (f : StageRegs → StageRegs) (s : State) :
    (updateStage j f s).fe = { s.fe with stages := s.fe.stages.set j (f s.fe.stages[j]) } := rfl
@[simp] theorem updateStage_hostRx (j : Fin 4) (f : StageRegs → StageRegs) (s : State) :
    (updateStage j f s).hostRx = s.hostRx := rfl
@[simp] theorem updateStage_hostTx (j : Fin 4) (f : StageRegs → StageRegs) (s : State) :
    (updateStage j f s).hostTx = s.hostTx := rfl
@[simp] theorem updateStage_clockSel (j : Fin 4) (f : StageRegs → StageRegs) (s : State) :
    (updateStage j f s).clockSel = s.clockSel := rfl
@[simp] theorem updateStage_readResult (j : Fin 4) (f : StageRegs → StageRegs) (s : State) :
    (updateStage j f s).readResult = s.readResult := rfl
@[simp] theorem updateStage_turns (j : Fin 4) (f : StageRegs → StageRegs) (s : State) :
    (updateStage j f s).turns = s.turns := rfl
@[simp] theorem updateStage_issued (j : Fin 4) (f : StageRegs → StageRegs) (s : State) :
    (updateStage j f s).issued = s.issued := rfl

/-! ## startTransmission -/

@[simp] theorem startTransmission_cfgTotal (s : State) : (startTransmission s).cfgTotal = s.cfgTotal := by
  unfold startTransmission; split <;> rfl
@[simp] theorem startTransmission_cfgPre (s : State) : (startTransmission s).cfgPre = s.cfgPre := by
  unfold startTransmission; split <;> rfl
@[simp] theorem startTransmission_cfgTrig (s : State) : (startTransmission s).cfgTrig = s.cfgTrig := by
  unfold startTransmission; split <;> rfl
@[simp] theorem startTransmission_cfgMode (s : State) : (startTransmission s).cfgMode = s.cfgMode := by
  unfold startTransmission; split <;> rfl
@[simp] theorem startTransmission_lat (s : State) : (startTransmission s).lat = s.lat := by
  unfold startTransmission; split <;> rfl
@[simp] theorem startTransmission_acq (s : State) : (startTransmission s).acq = s.acq := by
  unfold startTransmission; split <;> rfl
@[simp] theorem startTransmission_ringEn (s : State) : (startTransmission s).ringEn = s.ringEn := by
  unfold startTransmission; split <;> rfl
@[simp] theorem startTransmission_postEn (s : State) : (startTransmission s).postEn = s.postEn := by
  unfold startTransmission; split <;> rfl
@[simp] theorem startTransmission_muxEn (s : State) : (startTransmission s).muxEn = s.muxEn := by
  unfold startTransmission; split <;> rfl
@[simp] theorem startTransmission_watchEn (s : State) : (startTransmission s).watchEn = s.watchEn := by
  unfold startTransmission; split <;> rfl
@[simp] theorem startTransmission_handoff (s : State) : (startTransmission s).handoff = s.handoff := by
  unfold startTransmission; split <;> rfl
@[simp] theorem startTransmission_ref (s : State) : (startTransmission s).ref = s.ref := by
  unfold startTransmission; split <;> rfl
@[simp] theorem startTransmission_ringRemaining (s : State) : (startTransmission s).ringRemaining = s.ringRemaining := by
  unfold startTransmission; split <;> rfl
@[simp] theorem startTransmission_ring (s : State) : (startTransmission s).ring = s.ring := by
  unfold startTransmission; split <;> rfl
@[simp] theorem startTransmission_post (s : State) : (startTransmission s).post = s.post := by
  unfold startTransmission; split <;> rfl
@[simp] theorem startTransmission_postCount (s : State) : (startTransmission s).postCount = s.postCount := by
  unfold startTransmission; split <;> rfl
@[simp] theorem startTransmission_winFirst (s : State) : (startTransmission s).winFirst = s.winFirst := by
  unfold startTransmission; split <;> rfl
@[simp] theorem startTransmission_winAvail (s : State) : (startTransmission s).winAvail = s.winAvail := by
  unfold startTransmission; split <;> rfl
@[simp] theorem startTransmission_underrun (s : State) : (startTransmission s).underrun = s.underrun := by
  unfold startTransmission; split <;> rfl
@[simp] theorem startTransmission_dataValid (s : State) : (startTransmission s).dataValid = s.dataValid := by
  unfold startTransmission; split <;> rfl
@[simp] theorem startTransmission_samplesReady (s : State) : (startTransmission s).samplesReady = false := by
  unfold startTransmission; split <;> rfl
@[simp] theorem startTransmission_txActive (s : State) : (startTransmission s).txActive = true := by
  unfold startTransmission; split <;> rfl
@[simp] theorem startTransmission_txNext (s : State) : (startTransmission s).txNext = (s.lat.total : Int) - 1 := by
  unfold startTransmission; split <;> rfl
@[simp] theorem startTransmission_compPending (s : State) : (startTransmission s).compPending = s.compPending := by
  unfold startTransmission; split <;> rfl
@[simp] theorem startTransmission_trigIrqPending (s : State) : (startTransmission s).trigIrqPending = s.trigIrqPending := by
  unfold startTransmission; split <;> rfl
@[simp] theorem startTransmission_txOut (s : State) : (startTransmission s).txOut = s.txOut := by
  unfold startTransmission; split <;> rfl
@[simp] theorem startTransmission_faulted (s : State) : (startTransmission s).faulted = s.faulted := by
  unfold startTransmission; split <;> rfl
@[simp] theorem startTransmission_refused (s : State) : (startTransmission s).refused = s.refused := by
  unfold startTransmission; split <;> rfl
@[simp] theorem startTransmission_fe (s : State) : (startTransmission s).fe = s.fe := by
  unfold startTransmission; split <;> rfl
@[simp] theorem startTransmission_hostRx (s : State) : (startTransmission s).hostRx = s.hostRx := by
  unfold startTransmission; split <;> rfl
@[simp] theorem startTransmission_hostTx (s : State) : (startTransmission s).hostTx = s.hostTx := by
  unfold startTransmission; split <;> rfl
@[simp] theorem startTransmission_clockSel (s : State) : (startTransmission s).clockSel = s.clockSel := by
  unfold startTransmission; split <;> rfl
@[simp] theorem startTransmission_readResult (s : State) : (startTransmission s).readResult = s.readResult := by
  unfold startTransmission; split <;> rfl
@[simp] theorem startTransmission_turns (s : State) : (startTransmission s).turns = s.turns := by
  unfold startTransmission; split <;> rfl
@[simp] theorem startTransmission_issued (s : State) : (startTransmission s).issued = s.issued := by
  unfold startTransmission; split <;> rfl

end Sys2Proof.Machine
end

