-- ==== Sys2Proof/Laws/Storage.lean ====
section
/-! SUPPORT. The laws of the storages (spec/20_memory.md R61, R62): read after write, and that a write keeps the canonical
form. -/

namespace Sys2Proof.Machine

@[simp] theorem Memory.read_nil (k : Nat) : Memory.read [] k = none := rfl

theorem Memory.read_write_same (k : Nat) (w : Sample) (m : Memory) : (m.write k w).read k = some w := by
  induction m with
  | nil => simp [Memory.write, Memory.read]
  | cons c m ih =>
    obtain ⟨k', w'⟩ := c
    unfold Memory.write
    split
    · simp [Memory.read]
    · split
      · simp [Memory.read]
      · rename_i h; simp [Memory.read, h, ih]

theorem Memory.read_write_other {k k' : Nat} (h : k' ≠ k) (w : Sample) (m : Memory) :
    (m.write k w).read k' = m.read k' := by
  induction m with
  | nil => simp [Memory.write, Memory.read, h]
  | cons c m ih =>
    obtain ⟨a, x⟩ := c
    unfold Memory.write
    split
    · simp [Memory.read, h]
    · split
      · rename_i _ he; subst he; simp [Memory.read, h]
      · simp [Memory.read, ih]

/-- Read after write, both cases. -/
theorem Memory.read_write (k k' : Nat) (w : Sample) (m : Memory) :
    (m.write k w).read k' = if k' = k then some w else m.read k' := by
  split
  · rename_i h; subst h; exact Memory.read_write_same _ _ _
  · rename_i h; exact Memory.read_write_other h _ _

theorem Memory.wfFrom_mono {lo lo' cap : Nat} (h : lo' ≤ lo) {m : Memory} (hm : m.wfFrom lo cap = true) :
    m.wfFrom lo' cap = true := by
  cases m with
  | nil => rfl
  | cons c m =>
    obtain ⟨a, x⟩ := c
    simp only [Memory.wfFrom, Bool.and_eq_true, decide_eq_true_eq] at hm ⊢
    exact ⟨⟨by omega, hm.1.2⟩, hm.2⟩

theorem Memory.wfFrom_write {lo cap k : Nat} (w : Sample) (hlo : lo ≤ k) (hk : k < cap) {m : Memory}
    (hm : m.wfFrom lo cap = true) : (m.write k w).wfFrom lo cap = true := by
  induction m generalizing lo with
  | nil => simp [Memory.write, Memory.wfFrom, hlo, hk]
  | cons c m ih =>
    obtain ⟨a, x⟩ := c
    simp only [Memory.wfFrom, Bool.and_eq_true, decide_eq_true_eq] at hm
    obtain ⟨⟨h1, h2⟩, h3⟩ := hm
    unfold Memory.write
    split
    · rename_i hlt
      simp only [Memory.wfFrom, Bool.and_eq_true, decide_eq_true_eq]
      exact ⟨⟨hlo, hk⟩, ⟨by omega, h2⟩, h3⟩
    · split
      · rename_i he; subst he
        simp only [Memory.wfFrom, Bool.and_eq_true, decide_eq_true_eq]
        exact ⟨⟨hlo, hk⟩, h3⟩
      · simp only [Memory.wfFrom, Bool.and_eq_true, decide_eq_true_eq]
        exact ⟨⟨h1, h2⟩, ih (by omega) h3⟩

/-- A write to a slot that exists keeps the canonical form. -/
theorem Memory.wf_write {cap k : Nat} (w : Sample) (hk : k < cap) {m : Memory} (hm : m.wf cap = true) :
    (m.write k w).wf cap = true := Memory.wfFrom_write w (Nat.zero_le _) hk hm

/-- A slot below every listed one has no value. -/
theorem Memory.read_eq_none_of_lt {lo cap k : Nat} (hk : k < lo) {m : Memory} (hm : m.wfFrom lo cap = true) :
    m.read k = none := by
  induction m generalizing lo with
  | nil => rfl
  | cons c m ih =>
    obtain ⟨a, x⟩ := c
    simp only [Memory.wfFrom, Bool.and_eq_true, decide_eq_true_eq] at hm
    simp only [Memory.read]
    rw [if_neg (by omega)]
    exact ih (lo := a + 1) (by omega) hm.2

/-- A slot that has a value is at least the lower bound of the form. -/
theorem Memory.le_of_read {lo cap k : Nat} {m : Memory} (hm : m.wfFrom lo cap = true) (h : m.read k ≠ none) : lo ≤ k := by
  by_contra hk
  exact h (Memory.read_eq_none_of_lt (by omega) hm)

/-- Equal storages are equal data: two canonical storages that read alike are the same list. -/
theorem Memory.ext_read {lo cap : Nat} {m n : Memory} (hm : m.wfFrom lo cap = true) (hn : n.wfFrom lo cap = true)
    (h : ∀ k, m.read k = n.read k) : m = n := by
  induction m generalizing lo n with
  | nil =>
    cases n with
    | nil => rfl
    | cons c n =>
      have := h c.1
      simp [Memory.read] at this
  | cons c m ih =>
    obtain ⟨a, x⟩ := c
    cases n with
    | nil =>
      have := h a
      simp [Memory.read] at this
    | cons d n =>
      obtain ⟨b, y⟩ := d
      simp only [Memory.wfFrom, Bool.and_eq_true, decide_eq_true_eq] at hm hn
      have hab : a = b := by
        have ha := h a
        have hb := h b
        simp only [Memory.read, if_true] at ha hb
        by_contra hne
        rw [if_neg hne] at ha
        rw [if_neg (Ne.symm hne)] at hb
        have h1 := Memory.le_of_read hn.2 (k := a) (by rw [← ha]; simp)
        have h2 := Memory.le_of_read hm.2 (k := b) (by rw [hb]; simp)
        omega
      subst hab
      have hxy : x = y := by simpa [Memory.read] using h a
      subst hxy
      congr 1
      refine ih hm.2 hn.2 (fun k => ?_)
      by_cases hk : k = a
      · subst hk
        rw [Memory.read_eq_none_of_lt (by omega) hm.2, Memory.read_eq_none_of_lt (by omega) hn.2]
      · simpa [Memory.read, hk] using h k

/-- Both storages of the state after reset have the canonical form. -/
theorem State.reset_storage_wf :
    State.reset.ring.wf Config.RING_CAP = true ∧ State.reset.post.wf Config.POST_CAP = true := ⟨rfl, rfl⟩

end Sys2Proof.Machine
end

