-- ==== Sys2Proof/Laws/Sampling.lean ====
section
/-! SUPPORT. The laws of TICK's parts (spec/41_sampling_trigger.md R141 to R146). -/

namespace Sys2Proof.Machine

open Sys2Proof.Config

/-- A TICK while capturing, with room in the post buffer, is the five sub-steps. -/
theorem exec_tick {g : Word32} {s : State} (h : s.acq = .capturing) (hp : s.postEn = true → s.postCount < 100000) :
    exec (.tick g) s = .next (sampleTick g s) := by
  simp only [exec, execTick, h]
  have hcap : POST_CAP = 100000 := rfl
  rw [if_neg (by simp), if_neg]
  rintro ⟨h1, h2⟩
  have := hp h1
  omega

/-- A watcher is satisfied as the four kinds of 41 R144 say. -/
theorem watcherFires_iff (g : Word32) (d : BitVec 8) (r : Option Bool) : watcherFires g d r = true ↔
  (d.getLsbD 7 = true ∧
  (((d.extractLsb' 5 2) = 0b00 ∧ g.getLsbD (d.extractLsb' 0 5).toNat = true) ∨ ((d.extractLsb' 5 2) = 0b01 ∧ g.getLsbD (d.extractLsb' 0 5).toNat = false) ∨
   ((d.extractLsb' 5 2) = 0b10 ∧ r = some false ∧ g.getLsbD (d.extractLsb' 0 5).toNat = true) ∨
   ((d.extractLsb' 5 2) = 0b11 ∧ r = some true ∧ g.getLsbD (d.extractLsb' 0 5).toNat = false))) := by
  unfold watcherFires trigEn trigKind trigPin pinLevel
  generalize d.extractLsb' 5 2 = k
  generalize g.getLsbD (BitVec.toNat (d.extractLsb' 0 5)) = b
  generalize d.getLsbD 7 = e
  revert k b e r; decide

/-- The reference level an enabled watcher is left with is its pin's level. -/
theorem nextRefs_get (g : Word32) (s : State) (j : Fin 4) : (nextRefs g s)[j] = if (s.lat.trig[j]).getLsbD 7 then
        some (g.getLsbD ((s.lat.trig[j]).extractLsb' 0 5).toNat) else s.ref[j] := by
  fin_cases j <;> rfl

/-! ## The sub-steps that do nothing -/

@[simp] theorem ringStep_off {w : Sample} {s : State} (h : s.ringEn = false) : ringStep w s = s := by
  simp [ringStep, h]

@[simp] theorem postStep_off {w : Sample} {s : State} (h : s.postEn = false) : postStep w s = s := by
  simp [postStep, h]

@[simp] theorem countdownStep_none {s : State} (h : s.handoff = none) : countdownStep s = s := by
  simp [countdownStep, h]

theorem handoffStep_off {s : State} (h : s.handoff ≠ some 0) : handoffStep s = s := by
  simp [handoffStep, h]

theorem triggerStep_off {g : Word32} {s : State} (h : s.watchEn = false ∨ s.muxEn = false ∨ s.handoff ≠ none) :
    triggerStep g s = s := by
  unfold triggerStep
  rw [if_neg]
  rintro ⟨h1, h2, h3⟩
  simp_all

end Sys2Proof.Machine
end

