-- ==== Sys2Proof/Laws/Step.lean ====
section
/-! SUPPORT. What a step can do, said once: the inversions of `takeTurn`, `fetch` and of the ways `exec` can stop. -/

namespace Sys2Proof.Machine

/-- The turn taken is one of those presented, and one that can be taken. -/
theorem takeTurn_mem {s : State} {ts : List Turn} {t : Turn} {us : List Turn} (h : takeTurn s ts = some (t, us)) :
    turnEnabled s t = true ∧ t ∈ ts := by
  induction ts generalizing us with
  | nil => simp [takeTurn] at h
  | cons a ts ih =>
    unfold takeTurn at h
    split at h
    · rename_i ha
      simp only [Option.some.injEq, Prod.mk.injEq] at h
      exact ⟨h.1 ▸ ha, by simp [h.1]⟩
    · split at h
      · rename_i b bs hb
        simp only [Option.some.injEq, Prod.mk.injEq] at h
        obtain ⟨h1, h2⟩ := ih (h.1 ▸ hb)
        exact ⟨h1, List.mem_cons_of_mem _ h2⟩
      · cases h

/-- A command of the host link is never one of the two interrupt services, so it is always enabled. -/
theorem pollCommand_enabled {l rx} {i : Instr} (h : pollCommand l = (some i, rx)) (s : State) : enabledNow i s = true := by
  have key : ∀ (b : Byte) (p : Word32), decodeCommand b p ≠ .cirq ∧ decodeCommand b p ≠ .tirq := by
    intro b p; unfold decodeCommand; split <;> simp
  cases l with
  | nil => simp [pollCommand] at h
  | cons a l =>
    cases a with
    | none => simp [pollCommand] at h
    | some b =>
      simp only [pollCommand] at h
      split at h <;> (simp at h; obtain ⟨rfl, -⟩ := h; simp [enabledNow, key])

/-- What a step runs is enabled, and runs from a state that differs from the one stepped from in the inputs only. -/
theorem fetch_run {s s' : State} {i : Instr} (h : fetch s = .run i s') :
    s.faulted = none ∧ enabledNow i s = true ∧ ∃ ts is rx, s' = { s with turns := ts, issued := is, hostRx := rx } := by
  have word : ∀ w u, fetchWord w u s = .run i s' → enabledNow i s = true ∧ s' = u := by
    intro w u hw
    unfold fetchWord at hw
    split at hw
    · cases hw
    · split at hw
      · simp only [Fetched.run.injEq] at hw; obtain ⟨rfl, rfl⟩ := hw; exact ⟨‹_›, rfl⟩
      · cases hw
  have iss : ∀ u, fetchIssued u s = .run i s' → enabledNow i s = true ∧ ∃ is, s' = { u with issued := is } := by
    intro u hu
    unfold fetchIssued at hu
    split at hu
    · cases hu
    · obtain ⟨h1, h2⟩ := word _ _ hu; exact ⟨h1, _, h2⟩
  unfold fetch at h
  split at h
  · split at h <;> cases h
  · rename_i hf
    refine ⟨hf, ?_⟩
    split at h
    · rename_i t ts ht
      unfold fetchTurn at h
      split at h
      · cases h
      · obtain ⟨h1, is, h2⟩ := iss _ h; exact ⟨h1, _, is, s.hostRx, by rw [h2]⟩
      · split at h
        · unfold fetchPoll at h
          split at h
          · rename_i heq
            simp only [Fetched.run.injEq] at h; obtain ⟨rfl, rfl⟩ := h
            exact ⟨pollCommand_enabled heq s, _, s.issued, _, rfl⟩
          · cases h
        · obtain ⟨h1, is, h2⟩ := iss _ h; exact ⟨h1, s.turns, is, s.hostRx, by rw [h2]⟩
      · split at h
        · obtain ⟨h1, is, h2⟩ := iss _ h; exact ⟨h1, s.turns, is, s.hostRx, by rw [h2]⟩
        · obtain ⟨h1, h2⟩ := word _ _ h; exact ⟨h1, _, s.issued, s.hostRx, by rw [h2]⟩
    · obtain ⟨h1, is, h2⟩ := iss _ h; exact ⟨h1, s.turns, is, s.hostRx, by rw [h2]⟩

/-- A step without an operation leaves everything but the inputs, or is a block reset. -/
theorem fetch_quiet {s s' : State} (h : fetch s = .quiet s') :
    (∃ ts is rx, s' = { s with turns := ts, issued := is, hostRx := rx }) ∨
    (Turn.blockReset ∈ s.turns ∧ ∃ ts, s' = { State.reset with turns := ts, hostRx := s.hostRx }) := by
  have word : ∀ w u, fetchWord w u s = .quiet s' → s' = s := by
    intro w u hw
    unfold fetchWord at hw
    split at hw
    · cases hw
    · split at hw
      · cases hw
      · simp at hw; exact hw.symm
  have iss : ∀ u, fetchIssued u s = .quiet s' → s' = s := by
    intro u hu
    unfold fetchIssued at hu
    split at hu
    · simp at hu; exact hu.symm
    · exact word _ _ hu
  have self : s' = s → ∃ ts is rx, s' = { s with turns := ts, issued := is, hostRx := rx } :=
    fun h => ⟨s.turns, s.issued, s.hostRx, by rw [h]⟩
  unfold fetch at h
  split at h
  · split at h
    · rename_i hts
      simp at h; right; rw [hts]; exact ⟨by simp, _, h.symm⟩
    · cases h
  · split at h
    · rename_i t ts ht
      have hm := (takeTurn_mem ht).2
      unfold fetchTurn at h
      split at h
      · simp at h; right; exact ⟨hm, _, h.symm⟩
      · exact .inl (self (iss _ h))
      · split at h
        · unfold fetchPoll at h
          split at h
          · cases h
          · simp at h; exact .inl ⟨ts, s.issued, _, h.symm⟩
        · exact .inl (self (iss _ h))
      · split at h
        · exact .inl (self (iss _ h))
        · exact .inl (self (word _ _ h))
    · exact .inl (self (iss _ h))

/-- A word refused at decode is taken from a state that is not faulted. -/
theorem fetch_rejected {s s' : State} {e} (h : fetch s = .rejected e s') :
    s.faulted = none ∧ ∃ ts is rx, s' = { s with turns := ts, issued := is, hostRx := rx } := by
  have word : ∀ w u, fetchWord w u s = .rejected e s' → s' = u := by
    intro w u hw
    unfold fetchWord at hw
    split at hw
    · simp at hw; exact hw.2.symm
    · split at hw <;> cases hw
  have iss : ∀ u, fetchIssued u s = .rejected e s' → ∃ is, s' = { u with issued := is } := by
    intro u hu
    unfold fetchIssued at hu
    split at hu
    · cases hu
    · exact ⟨_, word _ _ hu⟩
  unfold fetch at h
  split at h
  · split at h <;> cases h
  · rename_i hf
    refine ⟨hf, ?_⟩
    split at h
    · rename_i t ts ht
      unfold fetchTurn at h
      split at h
      · cases h
      · obtain ⟨is, h2⟩ := iss _ h; exact ⟨_, is, s.hostRx, by rw [h2]⟩
      · split at h
        · unfold fetchPoll at h; split at h <;> cases h
        · obtain ⟨is, h2⟩ := iss _ h; exact ⟨s.turns, is, s.hostRx, by rw [h2]⟩
      · split at h
        · obtain ⟨is, h2⟩ := iss _ h; exact ⟨s.turns, is, s.hostRx, by rw [h2]⟩
        · have h2 := word _ _ h; exact ⟨_, s.issued, s.hostRx, by rw [h2]⟩
    · obtain ⟨is, h2⟩ := iss _ h; exact ⟨s.turns, is, s.hostRx, by rw [h2]⟩

/-- A step stops before any operation in a faulted state only. -/
theorem fetch_stopped {s : State} {r} (h : fetch s = .stopped r) : s.faulted = some r := by
  have word : ∀ w u, fetchWord w u s ≠ .stopped r := by
    intro w u; unfold fetchWord; split <;> [simp; (split <;> simp)]
  have iss : ∀ u, fetchIssued u s ≠ .stopped r := by
    intro u; unfold fetchIssued; split <;> [simp; exact word _ _]
  unfold fetch at h
  split at h
  · rename_i hf; split at h <;> simp_all
  · exfalso
    split at h
    · unfold fetchTurn at h
      split at h
      · cases h
      · exact iss _ h
      · split at h
        · unfold fetchPoll at h; split at h <;> cases h
        · exact iss _ h
      · split at h
        · exact iss _ h
        · exact word _ _ h
    · exact iss _ h

/-! ## How `exec` can stop -/

/-- Only CIRQ and TIRQ answer with the refusal outcome, when their notification is not pending. -/
theorem exec_refused {i : Instr} {s : State} {r : Refusal} (h : exec i s = .refused r) :
    (i = .cirq ∧ s.compPending = false) ∨ (i = .tirq ∧ s.trigIrqPending = false) := by
  cases i
  case cirq => simp only [exec, execCirq] at h; split at h <;> simp_all
  case tirq => simp only [exec, execTirq] at h; split at h <;> simp_all
  all_goals
    exfalso
    revert h
    simp only [exec, execCfgwr, execArm, execAbort, execTick, execRead, execTxstart, execTxunit, execIllegal0, execIllegalA, execIllegalB, execIllegalC, execIllegalD, execIllegalE, execIllegalF, illegalWord, execHostReset, execHostRun, execHostSendId, execHostSendMetadata, execHostTrigMask0, execHostTrigMask1, execHostTrigMask2, execHostTrigMask3, execHostTrigValues0, execHostTrigValues1, execHostTrigValues2, execHostTrigValues3, execHostTrigConfig0, execHostTrigConfig1, execHostTrigConfig2, execHostTrigConfig3, setMask, setValues, setConfig, execHostDivisor, execHostLegacySize, execHostFlags, execHostTotalSamples, execHostPreTrigger, execHostOther]
    repeat' split
    all_goals simp

/-- Only TICK answers with the fault outcome, when the post buffer has no slot left. -/
theorem exec_fault {i : Instr} {s : State} {r : Fault} (h : exec i s = .fault r) :
    s.postEn = true ∧ Config.POST_CAP ≤ s.postCount ∧ r = .noSuchPostSlot s.postCount := by
  cases i
  case tick g => simp only [exec, execTick] at h; repeat' (split at h)
                 all_goals simp_all
  all_goals
    exfalso
    revert h
    simp only [exec, execCfgwr, execArm, execAbort, execCirq, execTirq, execRead, execTxstart, execTxunit, execIllegal0, execIllegalA, execIllegalB, execIllegalC, execIllegalD, execIllegalE, execIllegalF, illegalWord, execHostReset, execHostRun, execHostSendId, execHostSendMetadata, execHostTrigMask0, execHostTrigMask1, execHostTrigMask2, execHostTrigMask3, execHostTrigValues0, execHostTrigValues1, execHostTrigValues2, execHostTrigValues3, execHostTrigConfig0, execHostTrigConfig1, execHostTrigConfig2, execHostTrigConfig3, setMask, setValues, setConfig, execHostDivisor, execHostLegacySize, execHostFlags, execHostTotalSamples, execHostPreTrigger, execHostOther]
    repeat' split
    all_goals simp

end Sys2Proof.Machine
end

