-- ==== Sys2Proof/Laws/Transport.lean ====
section
/-! SUPPORT. The laws of the transport encoder's parts (spec/42_readout_transport.md R177 to R183). -/

namespace Sys2Proof.Machine

open Sys2Proof.Config

/-- No group is enabled iff both bits are clear. -/
theorem groupCount_eq_zero (l : Latched) : groupCount l = 0 ↔ l.g0 = false ∧ l.g1 = false := by
  unfold groupCount; cases l.g0 <;> cases l.g1 <;> simp

/-- The run limit, the mask and the group count where a group is enabled. -/
theorem groups_enabled (l : Latched) (h : l.g0 = true ∨ l.g1 = true) : maxRun l = (if l.g0 && l.g1 then 32768 else 128) ∧
    groupMask l = (if l.g0 && l.g1 then 0xFFFF else if l.g0 then 0x00FF else 0xFF00) ∧ (groupCount l = 1 ↔ (l.g0 && l.g1) = false) ∧ (groupCount l = 2 ↔ (l.g0 && l.g1) = true) := by
  obtain ⟨_, _, _, _, _, g0, g1, _⟩ := l
  unfold maxRun groupMask groupCount
  cases g0 <;> cases g1 <;> simp_all

/-- The two header bytes of a run of `n + 1` samples with both groups enabled. -/
theorem runHeader_bytes (n : Nat) : (RLE_MARK_2 ||| BitVec.ofNat 16 n).extractLsb' 0 8 = BitVec.ofNat 8 n ∧
   (RLE_MARK_2 ||| BitVec.ofNat 16 n).extractLsb' 8 8 = 0x80 ||| BitVec.ofNat 8 (n / 256) := by
  constructor
  · apply BitVec.eq_of_getLsbD_eq
    intro i hi
    simp only [BitVec.getLsbD_extractLsb', BitVec.getLsbD_or, RLE_MARK_2, BitVec.getLsbD_ofNat, hi]
    interval_cases i <;> simp
  · apply BitVec.eq_of_getLsbD_eq
    intro i hi
    have : (n / 256).testBit i = n.testBit (8 + i) := by rw [show 256 = 2^8 from rfl, Nat.testBit_div_two_pow, Nat.add_comm]
    simp only [BitVec.getLsbD_extractLsb', BitVec.getLsbD_or, RLE_MARK_2, BitVec.getLsbD_ofNat, hi, this]
    have e : (32768#16).getLsbD (8 + i) = (128#8).getLsbD i := by interval_cases i <;> decide
    have e2 : decide (8 + i < 16) = true := by simp; omega
    simp [e, e2]

/-- The run-extending loop stays between the lower bound and where it began. -/
theorem extendRun_bounds (s : State) (v : Sample) (left : Nat) : ∀ n j n' j', -1 ≤ j → extendRun s v left n j = .ok (n', j') → -1 ≤ j' ∧ j' ≤ j := by
  induction left with
  | zero => intro n j n' j' h1 h; simp [extendRun] at h; omega
  | succ left ih =>
    intro n j n' j' h1 h
    unfold extendRun at h
    split at h
    · simp at h; omega
    · split at h
      · cases h
      · split at h
        · have := ih _ _ _ _ (by omega) h; omega
        · simp at h; omega

/-- A unit of either encoding appends bytes and moves the cursor down, and changes nothing else. -/
theorem oneUnit_frame {s t : State} (h0 : 0 ≤ s.txNext) (h : oneUnit s = .ok t) : ∃ b j, t = { s with txOut := s.txOut ++ b, txNext := j } ∧ -1 ≤ j ∧ j < s.txNext := by
  unfold oneUnit at h
  split at h
  · simp only [rleUnit] at h
    split at h
    · cases h
    · split at h
      · cases h
      · rename_i n j hj
        simp at h
        have := extendRun_bounds s _ _ _ _ _ _ (by omega) hj
        exact ⟨_, j, h.symm, by omega, by omega⟩
  · simp only [rawUnit] at h
    split at h
    · simp at h; exact ⟨_, _, h.symm, by omega, by omega⟩
    · cases h

end Sys2Proof.Machine
end

