-- ==== Sys2Proof/Tests/Slice0.lean ====
section
/-! SUPPORT. Tests of the model against the spec's own tables (spec/95_test_vectors.md; each test names the rows it takes its
expected result from), and for every obligation with hypotheses a witness that meets them. -/

open Sys2Proof Sys2Proof.Machine Sys2Proof.Config
open Host (Outcome)

namespace Sys2Proof.Tests

/-! # Helpers -/

/-- One field of the next state, if there is one. -/
def after {α : Type} (o : Outcome State Fault Refusal) (f : State → α) : Option α :=
  match o with
  | .next t => some (f t)
  | _ => none

/-- A latched configuration with no trigger. -/
def latched (total pre post : Nat) (g0 g1 rle : Bool) : Latched :=
  { Latched.zero with total := total, pre := pre, post := post, g0 := g0, g1 := g1, rle := rle }

/-- A capture under way with the post sampler on and one word to go. -/
def lastWord : State :=
  { State.reset with
    lat := latched 1 0 1 true true false
    acq := .capturing, ringEn := true, postEn := true, ringRemaining := INITIAL_COUNT }

/-- A completed capture of two words: 5 in the ring's window, 7 in the post buffer. -/
def completed (rle : Bool) : State :=
  { State.reset with
    lat := latched 2 1 1 true false rle
    ring := [(0, 5)], post := [(0, 7)], postCount := 1, winAvail := 1
    dataValid := true, samplesReady := true }

/-- The same capture while it is being sent. -/
def sending (rle : Bool) : State := { completed rle with samplesReady := false, txActive := true, txNext := 1 }

/-- A gated capture with one watcher, of descriptor `d`. -/
def gated (d : BitVec 8) (r : Option Bool) : State :=
  { State.reset with
    lat := { latched 6 2 4 true false false with trig := #v[d, 0, 0, 0], ntrig := 1 }
    acq := .capturing, ringEn := true, muxEn := true, watchEn := true
    ref := #v[r, none, none, none], ringRemaining := INITIAL_COUNT }

/-- A front-end with one serial stage: START, SERIAL, channel 0, mask 0b1, values 0b1. -/
def oneStage (config : Word32) : FrontEnd :=
  { FrontEnd.zero with
    stages := #v[{ mask := 1, values := 1, config := config }, StageRegs.zero, StageRegs.zero, StageRegs.zero]
    totalSamples := 8, preTriggerSamples := 4, rate := 5000 }

/-! # Well-formedness: an ill-formed term for each check -/

theorem test_cfgwr_register_7_refused : (Instr.cfgwr 7 0).wellFormed = false := by decide
theorem test_cfgwr_register_6_accepted : (Instr.cfgwr 6 0xFFFFFFFF).wellFormed = true := by decide
theorem test_hostOther_listed_byte_refused :
    (Instr.hostOther 0x00).wellFormed = false ∧ (Instr.hostOther 0x84).wellFormed = false ∧
    (Instr.hostOther 0xCE).wellFormed = false := by decide
theorem test_hostOther_unlisted_byte_accepted :
    (Instr.hostOther 0x03).wellFormed = true ∧ (Instr.hostOther 0xC3).wellFormed = true ∧
    (Instr.hostOther 0xCF).wellFormed = true := by decide

/-! # Decoding: words written out field by field, OP RSV A D (30 R80, R81; 95 section 2.1) -/

theorem test_decode_cfgwr :
    decodeOp (0b0001#4 ++ 0b0000#4 ++ 0b00000010#8 ++ 0x000000C0#32) = .instr (.cfgwr 2 0xC0) := by decide
theorem test_decode_arm : decodeOp (0b0010#4 ++ 0b0000#4 ++ 0b00000000#8 ++ 0#32) = .instr .arm := by decide
theorem test_decode_abort : decodeOp (0b0011#4 ++ 0b0000#4 ++ 0b00000000#8 ++ 0#32) = .instr .abort := by decide
theorem test_decode_tick :
    decodeOp (0b0100#4 ++ 0b0000#4 ++ 0b00000000#8 ++ 0x0000ABCD#32) = .instr (.tick 0xABCD) := by decide
theorem test_decode_cirq : decodeOp (0b0101#4 ++ 0b0000#4 ++ 0b00000000#8 ++ 0#32) = .instr .cirq := by decide
theorem test_decode_tirq : decodeOp (0b0110#4 ++ 0b0000#4 ++ 0b00000000#8 ++ 0#32) = .instr .tirq := by decide
theorem test_decode_read : decodeOp (0b0111#4 ++ 0b0000#4 ++ 0b00000000#8 ++ 7#32) = .instr (.read 7) := by decide
theorem test_decode_txstart : decodeOp (0b1000#4 ++ 0b0000#4 ++ 0b00000000#8 ++ 0#32) = .instr .txstart := by decide
theorem test_decode_txunit :
    decodeOp (0b1001#4 ++ 0b0000#4 ++ 0b00000001#8 ++ 0#32) = .instr (.txunit true) ∧
    decodeOp (0b1001#4 ++ 0b0000#4 ++ 0b00000000#8 ++ 0#32) = .instr (.txunit false) := by decide
theorem test_decode_illegal :
    decodeOp (0b0000#4 ++ 5#44) = .instr (.illegal0 5) ∧ decodeOp (0b1010#4 ++ 0#44) = .instr (.illegalA 0) ∧
    decodeOp (0b1011#4 ++ 1#44) = .instr (.illegalB 1) ∧ decodeOp (0b1100#4 ++ 2#44) = .instr (.illegalC 2) ∧
    decodeOp (0b1101#4 ++ 3#44) = .instr (.illegalD 3) ∧ decodeOp (0b1110#4 ++ 4#44) = .instr (.illegalE 4) ∧
    decodeOp (0b1111#4 ++ 0b0001#4 ++ 0#40) = .instr (.illegalF 0x10000000000) := by decide
theorem test_decode_refused :
    decodeOp (0b0001#4 ++ 0b0000#4 ++ 0b00000111#8 ++ 0#32) = .rejected .reservedRegister ∧
    decodeOp (0b0001#4 ++ 0b0001#4 ++ 0b00000000#8 ++ 8#32) = .rejected .reservedBits ∧
    decodeOp (0b0010#4 ++ 0b0000#4 ++ 0b00000000#8 ++ 1#32) = .rejected .reservedBits ∧
    decodeOp (0b0100#4 ++ 0b0000#4 ++ 0b00000001#8 ++ 0xABCD#32) = .rejected .reservedBits ∧
    decodeOp (0b1001#4 ++ 0b0000#4 ++ 0b00000010#8 ++ 0#32) = .rejected .reservedBits := by decide

/-- The bytes of a command with the payload 0x08000063, least significant byte first (30 R92). -/
def commandBytes (b : Byte) : List (Option Byte) := [some b, some 0x63, some 0x00, some 0x00, some 0x08]

theorem test_decode_commands_alone :
    pollCommand [some 0x00] = (some .hostReset, []) ∧ pollCommand [some 0x01] = (some .hostRun, []) ∧
    pollCommand [some 0x02] = (some .hostSendId, []) ∧ pollCommand [some 0x04] = (some .hostSendMetadata, []) ∧
    pollCommand [some 0x03, some 9] = (some (.hostOther 0x03), [some 9]) := by decide
theorem test_decode_stage_commands_01 :
    pollCommand (commandBytes 0xC0) = (some (.hostTrigMask0 0x08000063), []) ∧
    pollCommand (commandBytes 0xC1) = (some (.hostTrigValues0 0x08000063), []) ∧
    pollCommand (commandBytes 0xC2) = (some (.hostTrigConfig0 0x08000063), []) ∧
    pollCommand (commandBytes 0xC4) = (some (.hostTrigMask1 0x08000063), []) ∧
    pollCommand (commandBytes 0xC5) = (some (.hostTrigValues1 0x08000063), []) ∧
    pollCommand (commandBytes 0xC6) = (some (.hostTrigConfig1 0x08000063), []) := by decide
theorem test_decode_stage_commands_23 :
    pollCommand (commandBytes 0xC8) = (some (.hostTrigMask2 0x08000063), []) ∧
    pollCommand (commandBytes 0xC9) = (some (.hostTrigValues2 0x08000063), []) ∧
    pollCommand (commandBytes 0xCA) = (some (.hostTrigConfig2 0x08000063), []) ∧
    pollCommand (commandBytes 0xCC) = (some (.hostTrigMask3 0x08000063), []) ∧
    pollCommand (commandBytes 0xCD) = (some (.hostTrigValues3 0x08000063), []) ∧
    pollCommand (commandBytes 0xCE) = (some (.hostTrigConfig3 0x08000063), []) := by decide
theorem test_decode_size_commands :
    pollCommand (commandBytes 0x80) = (some (.hostDivisor 0x08000063), []) ∧
    pollCommand (commandBytes 0x81) = (some (.hostLegacySize 0x08000063), []) ∧
    pollCommand (commandBytes 0x82) = (some (.hostFlags 0x08000063), []) ∧
    pollCommand (commandBytes 0x83) = (some (.hostTotalSamples 0x08000063), []) ∧
    pollCommand (commandBytes 0x84) = (some (.hostPreTrigger 0x08000063), []) := by decide
/-- A row of the table as the host's bits: the operation word, and a command whose payload the table gives no bits. -/
theorem test_decode_table_word :
    decodeTableWord 48 0x1002000000C0 = some (.cfgwr 2 0xC0) ∧
    decodeTableWord 40 0x08000063C2 = some (.hostTrigConfig0 0x08000063) ∧
    decodeTableWord 8 0xC2 = some (.hostTrigConfig0 0) ∧ decodeTableWord 8 0x01 = some .hostRun := by decide

/-- Pseudo-operations (95 section 2.1; 30 R85, R86). -/
theorem test_assemble :
    assembleLine "TRIG 1, LL, 3".toList = some [.cfgwr 3 0xA3] ∧
    assembleLine "TRIG 3, EL, 31".toList = some [.cfgwr 5 0xFF] ∧
    assembleLine "MODE 1, 0, 1 ; G0, RLE".toList = some [.cfgwr 6 5] ∧
    assembleLine "TICK*2 0x41".toList = some [.tick 0x41, .tick 0x41] ∧
    assembleLine "CFGWR 7, 0".toList = none := by decide

/-! # One step of each instruction (95 sections 2.2 to 2.13) -/

theorem test_cfgwr_keeps_low_bits :
    after (exec (.cfgwr 2 0x12345) State.reset) (fun t => t.cfgTrig[0]) = some 0x45 ∧
    after (exec (.cfgwr 6 0xFF) State.reset) (·.cfgMode) = some 7 := by decide
theorem test_cfgwr_does_not_touch_latch :
    after (exec (.cfgwr 1 5) lastWord) (fun t => (t.cfgPre, t.lat.pre)) = some (5, 0) := by decide
theorem test_arm_clamps :
    after (exec .arm { State.reset with cfgTotal := 2000, cfgPre := 1500 }) (fun t => (t.lat.pre, t.lat.post)) =
      some (1024, 976) ∧
    after (exec .arm { State.reset with cfgTotal := 200000, cfgPre := 10 }) (fun t => (t.lat.pre, t.lat.post)) =
      some (10, 100000) := by decide
theorem test_arm_refused :
    after (exec .arm { State.reset with cfgTotal := 1024, cfgPre := 5000 }) (fun t => (t.refused, t.acq)) =
      some (some .noPostSamples, .idle) ∧
    after (exec .arm (sending false)) (·.faulted) = some (some .armDuringTransmit) := by decide
theorem test_abort_defuses_completion :
    after (exec .abort { lastWord with compPending := true }) (fun t => (t.acq, t.compPending, t.events)) =
      some (.idle, false, []) := by decide
theorem test_abort_keeps_notification :
    after (exec .abort { sending true with trigIrqPending := true }) (fun t => (t.txNext, t.trigIrqPending)) =
      some (-1, true) := by decide
theorem test_tick_fills_post_buffer :
    after (exec (.tick 0x8) lastWord) (fun t => (t.compPending, t.postEn, t.postCount)) = some (true, false, 1) := by
  decide
/-- Row G10: a watcher on a pin outside the captured channels fires. -/
theorem test_tick_fires_outside_channels :
    after (exec (.tick 0x00100000) (gated 0x94 none)) (·.trigIrqPending) = some true ∧
    after (exec (.tick 0x00080000) (gated 0x94 none)) (·.trigIrqPending) = some false := by
  constructor <;>
  · rw [exec_tick (by rfl) (by decide)]
    simp only [after, sampleTick, handoffStep_trigIrqPending]
    decide
/-- Rows G3, G4 and G6: the first level an edge watcher sees is no edge. -/
theorem test_watch_edges :
    watchMatch .edgeHigh none true = false ∧ watchMatch .edgeHigh (some false) true = true ∧
    watchMatch .edgeLow (some true) false = true ∧ watchMatch .edgeLow none false = false := by decide
theorem test_cirq_window :
    window 2 3 = (0, 2) ∧ window 3 3 = (0, 3) ∧ window 1024 3 = (1021, 3) ∧ window 1030 10 = (1020, 10) ∧
    window 2548 1024 = (500, 1024) ∧ window 1023 1024 = (0, 1023) := by decide
theorem test_cirq_not_enabled : exec .cirq State.reset = .refused (.notEnabled "CIRQ") := rfl
theorem test_tirq_notifies :
    after (exec .tirq { State.reset with trigIrqPending := true }) (fun t => (t.trigIrqPending, t.events)) =
      some (false, [.trigNotify]) := by decide
theorem test_read_ring_and_post :
    after (exec (.read 0) (completed false)) (·.readResult) = some (some 5) ∧
    after (exec (.read 1) (completed false)) (·.readResult) = some (some 7) := by decide
theorem test_read_out_of_range_and_early :
    after (exec (.read 0xFFFFFFFF) (completed false)) (·.readResult) = some (some 0) ∧
    after (exec (.read 0) lastWord) (·.refused) = some (some .readBeforeComplete) := by decide
/-- Rows X2 and X8. -/
theorem test_txstart :
    after (exec .txstart (completed false)) (fun t => (t.txActive, t.txNext, t.samplesReady)) =
      some (true, 1, false) ∧
    after (exec .txstart { completed false with underrun := true, lat := latched 8 4 4 true true false })
      (·.events) = some [.diagUnderrun 4 1] := by decide
/-- Row E12. -/
theorem test_txstart_refused :
    after (exec .txstart { completed true with lat := latched 2 1 1 false false true }) (·.refused) =
      some (some .rleNoGroups) := by decide
/-- Section 2.8 and row E1's last unit. -/
theorem test_txunit_bytes :
    rawBytes (latched 1 0 1 true true false) 0x1234 = [0x34, 0x12] ∧
    after (exec (.txunit false) (sending true)) (fun t => (t.txOut, t.txNext)) = some ([0x80, 0x07], 0) := by decide
/-- Rows E6 and E8: the header of a run of the maximum length. -/
theorem test_run_headers :
    runHeader (latched 1 0 1 true false true) 128 = [0xFF] ∧
    runHeader (latched 1 0 1 true true true) 32768 = [0xFF, 0xFF] ∧
    runHeader (latched 1 0 1 true true true) 2 = [0x01, 0x80] := by decide
/-- Row E7, decoded. -/
theorem test_decode_runs :
    decodeRuns (latched 1 0 1 true false true) [0xFF, 0x11, 0x80, 0x11] = some (List.replicate 129 0x11) := by decide
theorem test_illegal_sets_mark :
    after (exec (.illegalF 0) State.reset) (·.refused) = some (some .illegalOp) := by decide
/-- Row Z7: the host's reset keeps the sizes. -/
theorem test_host_reset :
    after (exec .hostReset { State.reset with fe := oneStage 0 })
      (fun t => (t.fe.stages[0], t.fe.totalSamples, t.issued)) = some (StageRegs.zero, 8, [0x300000000000]) := by decide
/-- Program P6, row 8: the words a run command issues, with no trigger and group 1 disabled. -/
theorem test_host_run_words :
    runOps { FrontEnd.zero with flags := 0x08, totalSamples := 8, preTriggerSamples := 4 } [⟨0, .levelLow⟩] =
      [0x100000000008, 0x100100000004, 0x1002000000A0, 0x100300000000,
       0x100400000000, 0x100500000000, 0x100600000001, 0x200000000000] := by decide
/-- Row 7 of V-RATE. -/
theorem test_host_run_zero_rate : exec .hostRun State.reset = .next (refuse .zeroRate State.reset) := by
  have h : translateStages State.reset.fe = some ([], []) := by decide
  have h2 : selectClock State.reset.fe.rate = none := if_pos le_rfl
  simp only [exec, execHostRun, h, h2]
theorem test_host_ids :
    after (exec .hostSendId State.reset) (fun t => t.hostTx.length) = some 4 ∧
    after (exec .hostSendMetadata State.reset) (fun t => t.hostTx.getLast?) = some (some 0) := by
  constructor
  · decide
  · simp [after, exec, execHostSendMetadata, sendHost, metadataResponse, State.reset]
theorem test_host_stages :
    after (exec (.hostTrigMask1 5) State.reset) (fun t => (t.fe.stages[1].mask, t.fe.stages[0].mask)) = some (5, 0) ∧
    after (exec (.hostTrigValues2 6) State.reset) (fun t => t.fe.stages[2].values) = some 6 ∧
    after (exec (.hostTrigConfig3 7) State.reset) (fun t => t.fe.stages[3].config) = some 7 := by decide
/-- Rows Z1 and Z2. -/
theorem test_host_legacy_size :
    after (exec (.hostLegacySize 0x00010003) State.reset) (fun t => (t.fe.totalSamples, t.fe.preTriggerSamples)) =
      some (16, 8) ∧
    after (exec (.hostLegacySize 0x00050001) State.reset) (·.refused) = some (some .negativePreTrigger) := by decide
/-- Rows Z3, Z4 and Z5. -/
theorem test_host_sizes :
    after (exec (.hostTotalSamples 7) State.reset) (fun t => t.fe.totalSamples) = some 32 ∧
    after (exec (.hostPreTrigger 3) { State.reset with fe := { FrontEnd.zero with totalSamples := 32 } })
      (fun t => t.fe.preTriggerSamples) = some 16 ∧
    after (exec (.hostPreTrigger 8) { State.reset with fe := { FrontEnd.zero with totalSamples := 32 } })
      (·.refused) = some (some .negativePreTrigger) := by decide
/-- X2: the demultiplexing flag doubles the rate. -/
theorem test_host_flags_demux : rateOf 0 true = 2 * BASE_CLOCK_RATE := by simp [rateOf]
theorem test_host_flags_divisor : rateOf 99 false = BASE_CLOCK_RATE / 100 := by simp [rateOf]
/-- Rows 1, 2 and 6 of V-RATE. -/
theorem test_select_clock :
    (selectClock 5000).map (fun c => (c.clk, c.div)) = some (100000000, 125 / 2) ∧
    (selectClock 5001).map (·.clk) = some 200000000 ∧
    (selectClock 1).map (fun c => (c.clk, c.div)) = some (100000000, 65535) := by
  refine ⟨?_, ?_, ?_⟩ <;> simp [selectClock, clampDiv, RATE_THRESHOLD, DIV_MAX, FAST_CLK, SLOW_CLK] <;> norm_num
/-- Rows T1, T5, T9, T10, T11 and T12 of V-TR. -/
theorem test_translate_serial :
    serialCandidates { mask := 3, values := 2, config := 0x0C000000 } = [⟨CAPTURE_BASE.val, .edgeHigh⟩] ∧
    serialCandidates { mask := 1, values := 1, config := 0x0C300000 } = [⟨CAPTURE_BASE.val + 3, .levelHigh⟩] ∧
    stageCandidates { mask := 1, values := 1, config := 0x08010000 } = [] ∧
    stageCandidates { mask := 1, values := 1, config := 0 } = [] ∧
    stageCandidates { mask := 0, values := 1, config := 0x08000000 } = [] ∧
    stageCandidates { mask := 7, values := 0, config := 0x0C000000 } = [] := by
  refine ⟨rfl, rfl, ?_⟩
  decide
theorem test_host_other_ignored : exec (.hostOther 0x03) lastWord = .next lastWord := rfl

/-! # A step -/

/-- The word of each operation, presented to the state after reset, is what the next step runs. -/
theorem test_step_runs_presented :
    after (step (State.reset.withFetchWord 48 0x100600000007)) (·.cfgMode) = some 7 ∧
    after (step (State.reset.withFetchWord 48 0x500000000000)) (fun t => (t.dataValid, t.turns)) = some (true, []) ∧
    after (step (State.reset.withFetchWord 8 0xC2)) (fun t => (t.fe.stages[0].config, t.hostRx)) = some (0, []) := by
  decide
/-- With nothing presented the block idles. -/
theorem test_step_idles : step State.reset = .next State.reset := rfl

/-! # Witnesses: for every obligation with hypotheses, a state and operands that meet them -/

/-! ## Encodings -/

theorem witness_DecodeInvertsEncode :
    (Instr.cfgwr 6 0xFFFFFFFF).wellFormed = true ∧ (Instr.hostOther 0xFF).wellFormed = true ∧
    (Instr.illegalF 0xFFFFFFFFFFF).wellFormed = true := by decide
/-- Both sides of DecodeOpIsExact, and words at the edges of the refused fields. -/
theorem witness_DecodeOpIsExact :
    decodeOp 0x1006FFFFFFFF = .instr (.cfgwr 6 0xFFFFFFFF) ∧ decodeOp 0x100700000000 = .rejected .reservedRegister ∧
    decodeOp 0x110700000000 = .rejected .reservedBits ∧ decodeOp 0x900100000001 = .rejected .reservedBits := by decide
theorem witness_PollReadsLittleEndianPayload :
    takesPayload 0x80 = true ∧ takesPayload 0xCE = true ∧ takesPayload 0x7F = false ∧ takesPayload 0x85 = false ∧
    takesPayload 0xC3 = false ∧ takesPayload 0xCF = false ∧
    pollCommand [some 0x80, none, some 1] = (some (.hostDivisor 0x0100), []) := by decide

/-! ## A step -/

/-- An agent's word behind a service that has to wait; and the sampler's word while an issued operation waits. -/
theorem witness_StepRunsPresentedWord :
    (let s : State := { State.reset with turns := [.op 0x500000000000, .op 0x200000000000, .poll] }
     s.faulted = none ∧ takeTurn s s.turns = some (.op 0x200000000000, [.op 0x500000000000, .poll]) ∧
     decodeOp 0x200000000000 = .instr .arm ∧ s.issued = []) ∧
    (let s : State := { State.reset with turns := [.op 0x400000000001], issued := [0x300000000000] }
     s.faulted = none ∧ takeTurn s s.turns = some (.op 0x400000000001, []) ∧
     decodeOp 0x400000000001 = .instr (.tick 1) ∧ agentOf (.tick 1) ≠ some .main) := by decide
theorem witness_PollRunsCommandOrNothing :
    (let s : State := { State.reset with turns := [.poll], hostRx := [some 0x01] }
     s.faulted = none ∧ takeTurn s s.turns = some (.poll, []) ∧ s.issued = [] ∧
     pollCommand s.hostRx = (some .hostRun, [])) ∧
    (let s : State := { State.reset with turns := [.poll], hostRx := [none, some 0x01] }
     s.faulted = none ∧ takeTurn s s.turns = some (.poll, []) ∧ s.issued = [] ∧
     s.hostRx.head? = some none ∧ s.hostRx.tail = [some 0x01]) := by decide
/-- One state for each of the four clauses. -/
theorem witness_StepTakesIssuedInOrder :
    (let s : State := { State.reset with issued := [0x300000000000] }
     s.faulted = none ∧ decodeOp 0x300000000000 = .instr .abort ∧ enabledNow .abort s = true ∧
     takeTurn s s.turns = none) ∧
    (let s : State := { State.reset with issued := [0x300000000000], turns := [.poll] }
     takeTurn s s.turns = some (.poll, [])) ∧
    (let s : State := { State.reset with issued := [0x300000000000], turns := [.op 0x200000000000] }
     takeTurn s s.turns = some (.op 0x200000000000, []) ∧ decodeOp 0x200000000000 = .instr .arm ∧
     agentOf .arm = some .main) ∧
    (let s : State := { State.reset with issued := [0x300000000000], turns := [.issuedOp] }
     takeTurn s s.turns = some (.issuedOp, [])) := by decide
theorem witness_NotEnabledServicesWait :
    State.reset.compPending = false ∧ State.reset.trigIrqPending = false ∧
    (let s : State := { State.reset with turns := [.op 0x500000000000, .op 0x600000000000, .issuedOp] }
     s.faulted = none ∧ s.issued = [] ∧ s.compPending = false ∧ s.trigIrqPending = false ∧
     (∀ t ∈ s.turns, t = .op 0x500000000000 ∨ t = .op 0x600000000000 ∨ t = .issuedOp)) := by decide
theorem witness_RejectedWordSetsMark :
    (let s : State := { State.reset with turns := [.op 0x100700000000] }
     s.faulted = none ∧ takeTurn s s.turns = some (.op 0x100700000000, []) ∧
     decodeOp 0x100700000000 = .rejected .reservedRegister) ∧
    (let s : State := { State.reset with turns := [.op 0x210000000000] }
     takeTurn s s.turns = some (.op 0x210000000000, []) ∧ decodeOp 0x210000000000 = .rejected .reservedBits) := by
  decide

/-! ## States that meet the invariant -/

theorem lastWord_coherent : Coherent lastWord := by
  have hw : writtenSinceArm lastWord = 0 := by simp [writtenSinceArm, lastWord]
  refine ⟨⟨?_, ?_, ?_, ?_, ?_, ?_, ?_, ?_, ?_⟩,
    ⟨?_, ?_, ?_, ?_, ?_, ?_, ?_, ?_, ?_, ?_, ?_, ?_, ?_, ?_, ?_, ?_⟩, ⟨?_, ?_⟩,
    ⟨?_, fun _ k hk => absurd hk (by rw [hw]; simp), ?_⟩⟩
  all_goals decide

theorem completed_coherent (rle : Bool) : Coherent (completed rle) := by
  cases rle <;>
  · refine ⟨⟨?_, ?_, ?_, ?_, ?_, ?_, ?_, ?_, ?_⟩,
      ⟨?_, ?_, ?_, ?_, ?_, ?_, ?_, ?_, ?_, ?_, ?_, ?_, ?_, ?_, ?_, ?_⟩, ⟨?_, ?_⟩, ⟨?_, (fun h => by cases h), ?_⟩⟩
    all_goals decide

theorem sending_coherent (rle : Bool) : Coherent (sending rle) := by
  cases rle <;>
  · refine ⟨⟨?_, ?_, ?_, ?_, ?_, ?_, ?_, ?_, ?_⟩,
      ⟨?_, ?_, ?_, ?_, ?_, ?_, ?_, ?_, ?_, ?_, ?_, ?_, ?_, ?_, ?_, ?_⟩, ⟨?_, ?_⟩, ⟨?_, (fun h => by cases h), ?_⟩⟩
    all_goals decide

/-! ## Marks, stops and reset -/

/-- A faulted state whose first turn is no block reset, and one that meets the invariant and stops. -/
theorem witness_StepStopsOnlyInFaultedState :
    (let s : State := { completed false with faulted := some .armDuringTransmit, turns := [.poll] }
     s.faulted = some .armDuringTransmit ∧ s.turns.head? ≠ some .blockReset) ∧
    (∃ s : State, Coherent s ∧ step s = .fault (.faultedFinal .armDuringTransmit)) := by
  refine ⟨by decide, { completed false with faulted := some .armDuringTransmit }, ?_, rfl⟩
  exact coherent_of_same (completed_coherent false)
    ⟨rfl, rfl, rfl, rfl, rfl, rfl, rfl, rfl, rfl, rfl, rfl, rfl, rfl, rfl, rfl, rfl, rfl, rfl, rfl, rfl, rfl⟩
theorem witness_MarksAreNeverCleared :
    (let s : State := { State.reset with faulted := some .armDuringTransmit, refused := some .zeroRate }
     exec .abort s = .next s ∧ s.faulted ≠ none ∧ s.refused ≠ none) ∧
    (let s : State := { State.reset with refused := some .zeroRate, turns := [.op 0x300000000000] }
     Turn.blockReset ∉ s.turns ∧ s.refused ≠ none ∧ step s = .next { s with turns := [] }) :=
  ⟨⟨rfl, by decide⟩, by decide, by decide, rfl⟩
theorem witness_ResetValues :
    ({ lastWord with turns := [.blockReset, .poll] } : State).turns = .blockReset :: [.poll] := rfl

/-! ## Acquisition control -/

/-- Each register number, and the first that is none. -/
theorem witness_CfgwrWritesItsRegister :
    (∀ r ∈ [(0 : BitVec 8), 1, 2, 3, 4, 5, 6], r.toNat < 7) ∧ ¬ (7 : BitVec 8).toNat < 7 := by decide
/-- One post-trigger sample left, without and with the clamp of the pre-trigger count. -/
theorem witness_ArmStartsCapture :
    (let s : State := { State.reset with cfgTotal := 1 }
     s.acq = .idle ∧ s.txActive = false ∧ min s.cfgPre.toNat 1024 + 1 ≤ s.cfgTotal.toNat) ∧
    (let s : State := { State.reset with cfgTotal := 1025, cfgPre := 5000 }
     min s.cfgPre.toNat 1024 + 1 ≤ s.cfgTotal.toNat) := by decide
theorem witness_ArmChecksInOrder :
    lastWord.acq = .capturing ∧ ((sending false).acq = .idle ∧ (sending false).txActive = true) ∧
    (let s : State := { State.reset with cfgTotal := 1024, cfgPre := 5000 }
     s.acq = .idle ∧ s.txActive = false ∧ s.cfgTotal.toNat < min s.cfgPre.toNat 1024 + 1) := by decide
theorem witness_AbortHaltsEverything :
    lastWord.acq = .capturing ∧ (sending true).acq = .idle ∧ (sending true).txActive = true := by decide
/-- A pending completion after `n` ring writes, 1024 pre-trigger words being requested. -/
def counted (n : Word32) : State :=
  { State.reset with
    compPending := true, ringRemaining := INITIAL_COUNT - n, lat := latched 1025 1024 1 true true false }
/-- A completion is pending after 1023 ring writes, one short of the 1024 requested (row W9), and after 1024. -/
theorem witness_CirqCompletesCapture :
    (∃ s : State, s.compPending = true ∧ (INITIAL_COUNT - s.ringRemaining).toNat = 1023 ∧ s.lat.pre = 1024) ∧
    (∃ s : State, s.compPending = true ∧ (INITIAL_COUNT - s.ringRemaining).toNat = 1024 ∧ s.lat.pre = 1024) := by
  have h (n : Word32) : INITIAL_COUNT - (INITIAL_COUNT - n) = n := by
    generalize INITIAL_COUNT = a
    bv_omega
  refine ⟨⟨counted 1023, rfl, ?_, rfl⟩, ⟨counted 1024, rfl, ?_, rfl⟩⟩ <;>
  · simp only [counted, h]
    decide
theorem witness_TirqServicesNotification :
    ({ completed false with trigIrqPending := true } : State).trigIrqPending = true := rfl
theorem witness_IllegalWordsSetMark (x : BitVec 44) :
    Instr.illegalA x ∈ [.illegal0 x, .illegalA x, .illegalB x, .illegalC x, .illegalD x, .illegalE x, .illegalF x] := by
  simp
/-- Each of the three instructions that move the controller moves it somewhere. -/
theorem witness_OnlyArmCirqAbortMoveController :
    after (exec .arm { State.reset with cfgTotal := 1 }) (·.acq) = some .capturing ∧
    after (exec .abort lastWord) (·.acq) = some .idle ∧
    after (exec .cirq { lastWord with compPending := true }) (·.acq) = some .idle := by decide

/-! ## Sampling -/

theorem witness_TickWhileIdleChangesNothing : (completed false).acq = .idle := rfl
/-- With both samplers on, and with the post buffer's last slot to be written. -/
theorem witness_TickRecordsOneWord :
    (lastWord.acq = .capturing ∧ lastWord.postEn = true ∧ lastWord.postCount < 100000) ∧
    (let s : State := { lastWord with postCount := 99999 }
     s.acq = .capturing ∧ (s.postEn = true → s.postCount < 100000)) := by decide
/-- Watchers that run, with one satisfied and with none satisfied; and both cases of the handoff's delay. -/
theorem witness_TickFiresOnAnyWatcher :
    (let s := gated 0x80 none
     s.acq = .capturing ∧ (s.postEn = true → s.postCount < 100000) ∧ s.watchEn = true ∧ s.muxEn = true ∧
     s.handoff = none) ∧
    (∃ j, satisfied 1 (gated 0x80 none) j) ∧ (∀ j, ¬ satisfied 0 (gated 0x80 none) j) ∧
    (∃ j, satisfied 1 (gated 0xC0 (some false)) j) ∧ (∀ j, ¬ satisfied 1 (gated 0xC0 none) j) ∧
    (0 < HANDOFF_DELAY ∨ HANDOFF_DELAY = 0) := by
  have h : ∀ (g : Word32) (s : State) (j : Fin 4), satisfied g s j ↔ watcherFires g s.lat.trig[j] s.ref[j] = true :=
    fun g s j => (watcherFires_iff g _ _).symm
  refine ⟨by decide, ?_, ?_, ?_, ?_, by omega⟩ <;> simp only [h] <;> decide
theorem witness_TickWithoutWatchersCountsDown :
    (lastWord.watchEn = false ∧ lastWord.handoff = none) ∧
    (let s : State := { gated 0x80 none with handoff := some 2 }
     s.acq = .capturing ∧ (s.postEn = true → s.postCount < 100000) ∧ s.handoff ≠ none ∧ s.handoff = some (0 + 2)) ∧
    (let s : State := { gated 0x80 none with handoff := some 1 }
     s.handoff ≠ none ∧ (s.handoff = some 1 ∨ s.handoff = some 0)) := by decide
theorem witness_TickBeyondPostBufferStops :
    (let s : State := { lastWord with postCount := 100000 }
     s.acq = .capturing ∧ s.postEn = true ∧ 100000 ≤ s.postCount) := by decide
theorem witness_HandoffTakesItsDelay :
    (let s : State := { gated 0x80 none with handoff := some 1 }
     s.acq = .capturing ∧ s.ringEn = true ∧ s.postEn = false ∧ s.handoff = some [(0x41 : Word32)].length ∧
     [(0x41 : Word32)] ≠ []) := by decide
/-- Two words with room for exactly two, and with room for more. -/
theorem witness_PostBufferRecordsConsecutiveTicks :
    (let s : State := { lastWord with lat := latched 2 0 2 true true false }
     s.acq = .capturing ∧ s.postEn = true ∧ s.compPending = false ∧ s.muxEn = false ∧ s.handoff = none ∧
     s.lat.post ≤ 100000 ∧ s.postCount + [(7 : Word32), 8].length ≤ s.lat.post ∧ s.postCount < s.lat.post) ∧
    (let s : State := { lastWord with lat := latched 100000 0 100000 true true false }
     s.lat.post ≤ 100000 ∧ s.postCount + [(7 : Word32), 8].length ≤ s.lat.post) := by decide
theorem witness_TickNeverRaisesBoth :
    Coherent lastWord ∧ lastWord.compPending = false ∧
    ∃ t, exec (.tick 7) lastWord = .next t ∧ t.compPending = true := by
  refine ⟨lastWord_coherent, rfl, _, exec_tick (by rfl) (by decide), ?_⟩
  simp only [sampleTick, handoffStep_compPending, triggerStep_compPending, countdownStep_compPending]
  decide

/-! ## Window, readout and transport -/

theorem witness_WindowHoldsNewestWords :
    (let s : State := { gated 0x80 none with ringRemaining := INITIAL_COUNT }
     s.ringEn = true ∧ s.ringRemaining = INITIAL_COUNT ∧ [(0x10 : Sample), 0x20, 0x31].length < 2 ^ 32 ∧
     (0 ≤ 1024 ∧ 2 ≤ 1024 ∧ 1024 ≤ 1024)) := ⟨rfl, rfl, by decide⟩
/-- The last index of the window, the first and last of the post buffer, and the first beyond. -/
theorem witness_ReadReturnsLogicalSample :
    (completed false).dataValid = true ∧
    (0 < (completed false).winAvail ∧
      (completed false).ring.read (((completed false).winFirst + 0) % 1024) = some 5) ∧
    (¬ 1 < (completed false).winAvail ∧ 1 < (completed false).winAvail + (completed false).lat.post ∧
      (completed false).post.read (1 - (completed false).winAvail) = some 7) ∧
    ¬ 2 < (completed false).winAvail + (completed false).lat.post := by decide
theorem witness_ReadWithoutValueSetsMark :
    lastWord.dataValid = false ∧
    (let s : State := { completed false with ring := [] }
     s.dataValid = true ∧ 0 < s.winAvail ∧ s.ring.read ((s.winFirst + 0) % 1024) = none) ∧
    (let s : State := { completed false with post := [] }
     s.dataValid = true ∧ s.winAvail ≤ 1 ∧ 1 < s.winAvail + s.lat.post ∧ s.post.read (1 - s.winAvail) = none) := by
  decide
theorem witness_TxstartBeginsTransmission :
    (completed true).samplesReady = true ∧
    ¬ ((completed true).lat.rle = true ∧ (completed true).lat.g0 = false ∧ (completed true).lat.g1 = false) ∧
    (let s : State := { completed false with lat := latched 2 1 1 false false false }
     ¬ (s.lat.rle = true ∧ s.lat.g0 = false ∧ s.lat.g1 = false)) := by decide
theorem witness_TxstartChecksInOrder :
    lastWord.samplesReady = false ∧
    (let s : State := { completed true with lat := latched 2 1 1 false false true }
     s.samplesReady = true ∧ s.lat.rle = true ∧ s.lat.g0 = false ∧ s.lat.g1 = false) := by decide
theorem witness_RawUnitEmitsEnabledGroups :
    (sending false).txActive = true ∧ (sending false).lat.rle = false ∧
    logicalRead (sending false) (sending false).txNext = .ok 7 := ⟨rfl, rfl, rfl⟩
/-- The two logical samples of the capture being sent. -/
theorem sending_samples (rle : Bool) (j : Int) (h0 : 0 ≤ j) (h1 : j ≤ 1) :
    logicalRead (sending rle) j = .ok (if j = 0 then 5 else 7) := by
  have : j = 0 ∨ j = 1 := by omega
  rcases this with h | h <;> subst h <;> rfl
theorem witness_RleUnitEmitsOneMaximalRun :
    (sending true).txActive = true ∧ (sending true).lat.rle = true ∧
    ((sending true).lat.g0 = true ∨ (sending true).lat.g1 = true) ∧ 0 ≤ (sending true).txNext ∧
    ∀ j, 0 ≤ j → j ≤ (sending true).txNext → logicalRead (sending true) j = .ok (if j = 0 then 5 else 7) :=
  ⟨rfl, rfl, .inl rfl, by decide, fun j h0 h1 => sending_samples true j h0 h1⟩
theorem witness_TxunitCancelAndRefusal :
    (sending true).txActive = true ∧ (completed true).txActive = false := by decide
theorem witness_RawTransmissionSendsEverySample :
    (sending false).txActive = true ∧ (sending false).lat.rle = false ∧ (sending false).txNext = (1 : Nat) ∧
    ∀ i ≤ 1, logicalRead (sending false) (i : Nat) = .ok (if i = 0 then 5 else 7) := by
  refine ⟨rfl, rfl, rfl, fun i h => ?_⟩
  have : i = 0 ∨ i = 1 := by omega
  rcases this with h | h <;> subst h <;> rfl
theorem witness_RleTransmissionRoundTrips :
    (sending true).txActive = true ∧ (sending true).lat.rle = true ∧
    ((sending true).lat.g0 = true ∨ (sending true).lat.g1 = true) ∧ (sending true).txNext = (1 : Nat) ∧
    ∀ i ≤ 1, logicalRead (sending true) (i : Nat) = .ok (if i = 0 then 5 else 7) := by
  refine ⟨rfl, rfl, .inl rfl, rfl, fun i h => ?_⟩
  have : i = 0 ∨ i = 1 := by omega
  rcases this with h | h <;> subst h <;> rfl
theorem witness_OutputsAreAppendOnly :
    exec (.txunit true) (sending true) = .next (endTransmission (sending true)) := rfl

/-! ## Host front-end -/

theorem witness_HostResetZeroesProtocolState :
    (sending true).txActive = true ∧ (completed true).txActive = false := by decide

/-- A serial stage of channel 0 with a set value bit asks for one level trigger. -/
theorem oneStage_translates :
    translateStages (oneStage 0x0C000000) = some ([⟨CAPTURE_BASE.val, .levelHigh⟩], []) := by
  have h : allCandidates (oneStage 0x0C000000) = [(0, ⟨CAPTURE_BASE.val, .levelHigh⟩)] := rfl
  have h2 := CAPTURE_BASE.isLt
  unfold translateStages
  simp only [h]
  rw [if_neg (by simp; omega)]
  rfl
theorem oneStage_clock : ∃ sel, selectClock (oneStage 0x0C000000).rate = some sel := by
  cases h : selectClock (oneStage 0x0C000000).rate with
  | some sel => exact ⟨sel, rfl⟩
  | none =>
    unfold selectClock at h
    rw [if_neg (by simp [oneStage])] at h
    split at h <;> cases h
/-- A front-end that is to run. -/
def running : State := { State.reset with fe := oneStage 0x0C000000 }
theorem witness_HostRunIssuesCapture :
    ∃ sel, translateStages running.fe = some ([⟨CAPTURE_BASE.val, .levelHigh⟩], []) ∧
      selectClock running.fe.rate = some sel ∧
      running.fe.totalSamples = (8 : Word32).toNat ∧ running.fe.preTriggerSamples = (4 : Word32).toNat := by
  obtain ⟨sel, h⟩ := oneStage_clock
  exact ⟨sel, oneStage_translates, h, rfl, rfl⟩
theorem witness_HostRunArmsCapture :
    ∃ sel t, translateStages running.fe = some ([⟨CAPTURE_BASE.val, .levelHigh⟩], []) ∧
      selectClock running.fe.rate = some sel ∧
      running.fe.totalSamples = (8 : Word32).toNat ∧ running.fe.preTriggerSamples = (4 : Word32).toNat ∧
      running.faulted = none ∧ running.turns = [] ∧ running.issued = [] ∧ running.acq = .idle ∧
      running.txActive = false ∧ min (4 : Word32).toNat 1024 + 1 ≤ (8 : Word32).toNat ∧
      exec .hostRun running = .next t := by
  obtain ⟨sel, h⟩ := oneStage_clock
  have h2 : translateStages running.fe = some ([⟨CAPTURE_BASE.val, .levelHigh⟩], []) := oneStage_translates
  have h3 : selectClock running.fe.rate = some sel := h
  refine ⟨sel, issueOps (runOps running.fe [⟨CAPTURE_BASE.val, .levelHigh⟩])
    (emitEvents [] { running with clockSel := some sel }), h2, h3, rfl, rfl, rfl, rfl, rfl, rfl, rfl, by decide, ?_⟩
  simp only [exec, execHostRun, h2, h3]
/-- The same with no trigger: a stage without START asks for none. -/
theorem witness_HostRunArmsCapture_ungated : translateStages (oneStage 0) = some ([], []) := rfl
theorem witness_StageCommandsWriteTheirRegister (p : Word32) :
    ((3 : Fin 4), Instr.hostTrigMask3 p) ∈
      [((0 : Fin 4), Instr.hostTrigMask0 p), (1, .hostTrigMask1 p), (2, .hostTrigMask2 p), (3, .hostTrigMask3 p)] := by
  simp
/-- Rows Z1 (and a pre-trigger size of 0) and Z4 (and one of 0). -/
theorem witness_SizeCommandsSetCounts :
    (0x00010003 : Word32).toNat / 65536 ≤ (0x00010003 : Word32).toNat % 65536 ∧
    (0x00030003 : Word32).toNat / 65536 ≤ (0x00030003 : Word32).toNat % 65536 ∧
    4 * ((3 : Word32).toNat : Int) + 4 ≤ 32 ∧ 4 * ((7 : Word32).toNat : Int) + 4 ≤ 32 := by decide
/-- Rows Z2 and Z5 with the least sizes refused; a pin beyond the snapshot where CAPTURE_BASE admits one (row T13); a rate of
0 with no trigger. -/
theorem witness_FrontEndRefusalsSetMark :
    (0x00040003 : Word32).toNat % 65536 < (0x00040003 : Word32).toNat / 65536 ∧
    (32 : Int) < 4 * ((8 : Word32).toNat : Int) + 4 ∧
    (0 < CAPTURE_BASE.val → ∃ c ∈ allCandidates (oneStage 0x0DF00000), 31 < c.2.pin) ∧
    ((∀ c ∈ allCandidates FrontEnd.zero, c.2.pin ≤ 31) ∧ FrontEnd.zero.rate ≤ 0) := by
  refine ⟨by decide, by decide, fun h => ?_, ⟨by decide, le_rfl⟩⟩
  have he : allCandidates (oneStage 0x0DF00000) = [(0, ⟨CAPTURE_BASE.val + 31, .levelHigh⟩)] := rfl
  rw [he]
  exact ⟨_, List.mem_singleton.mpr rfl, by simp; omega⟩
/-- Two parallel stages that ask for five triggers (row T8). -/
def twoStages : FrontEnd :=
  { FrontEnd.zero with
    stages := #v[{ mask := 0b111, values := 0, config := 0x08000000 }, { mask := 0b11, values := 0, config := 0x08000000 },
      StageRegs.zero, StageRegs.zero] }
/-- One candidate, and the five of row T8, the last dropped. -/
theorem witness_TranslateKeepsFirstFour :
    translateStages (oneStage 0x0C000000) = some ([⟨CAPTURE_BASE.val, .levelHigh⟩], []) ∧
    ∃ ts, translateStages twoStages = some (ts, [.diagTrigDrop 1]) ∧
      ts.map (·.pin) = [CAPTURE_BASE.val, CAPTURE_BASE.val + 1, CAPTURE_BASE.val + 2, CAPTURE_BASE.val] := by
  refine ⟨oneStage_translates, ?_⟩
  have h : allCandidates twoStages =
      [(0, ⟨CAPTURE_BASE.val, parallelKind false EDGE_OVERRIDE⟩), (0, ⟨CAPTURE_BASE.val + 1, parallelKind false EDGE_OVERRIDE⟩),
       (0, ⟨CAPTURE_BASE.val + 2, parallelKind false EDGE_OVERRIDE⟩), (1, ⟨CAPTURE_BASE.val, parallelKind false EDGE_OVERRIDE⟩),
       (1, ⟨CAPTURE_BASE.val + 1, parallelKind false EDGE_OVERRIDE⟩)] := rfl
  have hb := CAPTURE_BASE.isLt
  unfold translateStages
  rw [h, if_neg (by simp; omega)]
  exact ⟨_, rfl, rfl⟩
/-- A serial stage's one trigger, and a parallel stage's two (row T7). -/
theorem witness_StageAsksForItsTriggers :
    (⟨CAPTURE_BASE.val, .levelHigh⟩ : Candidate) ∈ stageCandidates { mask := 1, values := 1, config := 0x0C000000 } ∧
    (stageCandidates { mask := 0b101, values := 0b001, config := 0x08000000 }).map (·.pin) =
      [CAPTURE_BASE.val, CAPTURE_BASE.val + 2] :=
  ⟨List.mem_singleton.mpr rfl, rfl⟩
theorem witness_SelectClockRegimes : (0 : Rat) ≤ 0 ∧ (0 : Rat) < 5000 ∧ (5000 : Rat) ≤ 5000 ∧ (5000 : Rat) < 5001 := by
  norm_num
theorem witness_BlockAndFrontEndKeepApart :
    (exec .abort State.reset = .next State.reset ∧ ∃ w, encode .abort = .op w) ∧
    (exec (.hostOther 3) State.reset = .next State.reset ∧ ∃ bs, encode (.hostOther 3) = .host bs) :=
  ⟨⟨rfl, _, rfl⟩, rfl, _, rfl⟩

/-! ## Invariants -/

theorem witness_StepKeepsCoherent :
    Coherent (completed true) ∧ ∃ t, step ((completed true).withFetchWord 48 0x800000000000) = .next t ∧
      t.txActive = true := ⟨completed_coherent true, _, rfl, rfl⟩
theorem witness_StepKeepsStorageForm :
    StorageForm (completed true) ∧ step (completed true) = .next (completed true) :=
  ⟨(completed_coherent true).storage, rfl⟩
theorem witness_NoReadOfAnUnwrittenSlot :
    Coherent (sending true) ∧ (sending true).dataValid = true ∧ (sending true).faulted = none ∧
    step (sending true) = .next (sending true) := ⟨sending_coherent true, rfl, rfl, rfl⟩

end Sys2Proof.Tests
end

section
/-! SUPPORT. The statements of spec/00_scope.md: who moves next (R6, R11, R12), how a step can end (R12, R42, R260), and
the separation of the block from its front-end (R6). -/

namespace Sys2Proof.Machine

/-! ## The turn taken (00 R11, R12) -/

theorem takeTurn_cons_enabled {s : State} {t : Turn} (ts : List Turn) (h : turnEnabled s t = true) :
    takeTurn s (t :: ts) = some (t, ts) := by simp [takeTurn, h]

theorem takeTurn_cons_waiting {s : State} {t : Turn} (ts : List Turn) (h : turnEnabled s t = false) :
    takeTurn s (t :: ts) = (takeTurn s ts).map (fun p => (p.1, t :: p.2)) := by
  rw [takeTurn, if_neg (by simp [h])]
  cases takeTurn s ts <;> rfl

theorem takeTurn_eq_none_iff {s : State} {ts : List Turn} :
    takeTurn s ts = none ↔ ∀ u ∈ ts, turnEnabled s u = false := by
  induction ts with
  | nil => simp [takeTurn]
  | cons t ts ih =>
    cases ht : turnEnabled s t with
    | true => simp [takeTurn_cons_enabled ts ht, ht]
    | false => simp [takeTurn_cons_waiting ts ht, ht, ih]

theorem takeTurn_eq_some {s : State} {ts us : List Turn} {t : Turn} (h : takeTurn s ts = some (t, us)) :
    ∃ before after, ts = before ++ t :: after ∧ us = before ++ after ∧ turnEnabled s t = true ∧
      ∀ u ∈ before, turnEnabled s u = false := by
  induction ts generalizing us with
  | nil => simp [takeTurn] at h
  | cons a ts ih =>
    cases ha : turnEnabled s a with
    | true =>
      rw [takeTurn_cons_enabled ts ha] at h
      obtain ⟨rfl, rfl⟩ : a = t ∧ ts = us := by simpa using h
      exact ⟨[], ts, rfl, rfl, ha, by simp⟩
    | false =>
      rw [takeTurn_cons_waiting ts ha] at h
      obtain ⟨⟨u, vs⟩, hrest, hp⟩ := Option.map_eq_some_iff.mp h
      obtain ⟨rfl, rfl⟩ : u = t ∧ a :: vs = us := by simpa using hp
      obtain ⟨before, after, rfl, rfl, ht, hwait⟩ := ih hrest
      exact ⟨a :: before, after, rfl, rfl, ht, by simpa [ha] using hwait⟩

/-- Settles O10: the two answers of `takeTurn`, each by induction on the list of turns. -/
theorem takenTurnIsFirstEnabled : Obligations.TakenTurnIsFirstEnabled := by
  intro s ts
  split
  next h => exact takeTurn_eq_some h
  next h => exact takeTurn_eq_none_iff.mp h

/-! ## What a step is to do, by the turn taken -/

@[simp] theorem enabledNow_cirq (s : State) : enabledNow .cirq s = s.compPending := by simp [enabledNow]

@[simp] theorem enabledNow_tirq (s : State) : enabledNow .tirq s = s.trigIrqPending := by simp [enabledNow]

/-- Nothing but a block reset goes on in a faulted state (60 R260). -/
theorem fetch_of_faulted {s : State} {r : FaultReason} (hf : s.faulted = some r)
    (ht : s.turns.head? ≠ some .blockReset) : fetch s = .stopped r := by
  rw [fetch, hf]
  cases hts : s.turns with
  | nil => rfl
  | cons t ts => cases t <;> simp_all

theorem fetch_of_takeTurn {s : State} {t : Turn} {ts : List Turn} (hf : s.faulted = none)
    (ht : takeTurn s s.turns = some (t, ts)) : fetch s = fetchTurn t ts s := by simp [fetch, hf, ht]

theorem fetch_of_no_turn {s : State} (hf : s.faulted = none) (ht : takeTurn s s.turns = none) :
    fetch s = fetchIssued s s := by simp [fetch, hf, ht]

theorem fetchIssued_nil {s : State} (s' : State) (h : s.issued = []) : fetchIssued s' s = .quiet s := by
  simp [fetchIssued, h]

theorem turnEnabled_op {w : OpWord} {i : Instr} (h : decodeOp w = .instr i) (s : State) :
    turnEnabled s (.op w) = enabledNow i s := by simp [turnEnabled, wordEnabled, h]

theorem turnOfMain_op {w : OpWord} {i : Instr} (h : decodeOp w = .instr i) :
    turnOfMain (.op w) = decide (agentOf i = some .main) := by simp [turnOfMain, h]

theorem fetchWord_enabled {w : OpWord} {i : Instr} {s : State} (s' : State) (h : decodeOp w = .instr i)
    (he : enabledNow i s = true) : fetchWord w s' s = .run i s' := by simp [fetchWord, h, he]

/-- A word that no issued operation goes before is looked at in its own turn. -/
theorem fetchTurn_op {w : OpWord} {i : Instr} {s : State} (ts : List Turn) (h : decodeOp w = .instr i)
    (hi : s.issued = [] ∨ agentOf i ≠ some .main) :
    fetchTurn (.op w) ts s = fetchWord w { s with turns := ts } s := by
  rw [fetchTurn, turnOfMain_op h, if_neg]
  rintro ⟨hmain, hissued⟩
  obtain h0 | h0 := hi <;> simp_all

/-! ## How a step can end -/

theorem step_of_run {s s' : State} {i : Instr} (h : fetch s = .run i s') : step s = exec i s' := by simp [step, h]

theorem step_of_quiet {s s' : State} (h : fetch s = .quiet s') : step s = .next s' := by simp [step, h]

theorem step_of_stopped {s : State} {r : FaultReason} (h : fetch s = .stopped r) :
    step s = .fault (.faultedFinal r) := by simp [step, h]

/-- A step refuses only where the instruction it runs does. -/
theorem step_refused {s : State} {r : Refusal} (h : step s = .refused r) :
    ∃ i s', fetch s = .run i s' ∧ exec i s' = .refused r := by
  cases hf : fetch s with
  | run i s' => exact ⟨i, s', rfl, by rwa [step_of_run hf] at h⟩
  | _ => simp [step, hf] at h

/-- A step stops in a faulted state, or where the instruction it runs does. -/
theorem step_fault {s : State} {r : Fault} (h : step s = .fault r) :
    (∃ m, s.faulted = some m ∧ r = .faultedFinal m) ∨ ∃ i s', fetch s = .run i s' ∧ exec i s' = .fault r := by
  cases hf : fetch s with
  | run i s' => exact .inr ⟨i, s', rfl, by rwa [step_of_run hf] at h⟩
  | stopped m =>
    rw [step_of_stopped hf] at h
    exact .inl ⟨m, fetch_stopped hf, (Host.Outcome.fault.inj h).symm⟩
  | _ => simp [step, hf] at h

/-- Settles O13: `exec` refuses only an interrupt service whose notification is not pending, and a step runs enabled
instructions only. -/
theorem stepNeverRefuses : Obligations.StepNeverRefuses := by
  intro s r h
  obtain ⟨i, s', hrun, hexec⟩ := step_refused h
  obtain ⟨-, hen, ts, is, rx, rfl⟩ := fetch_run hrun
  obtain ⟨rfl, hclear⟩ | ⟨rfl, hclear⟩ := exec_refused hexec
  · exact absurd hclear (by simpa using hen)
  · exact absurd hclear (by simpa using hen)

theorem Coherent.post_room {s : State} (hc : Coherent s) (hen : s.postEn = true) : s.postCount < Config.POST_CAP :=
  lt_of_lt_of_le (hc.ranges.postEn_room hen) hc.ranges.post_le

/-- The invariant leaves a running post sampler a slot, so the instruction a step runs does not stop (20 R62;
log 16). -/
theorem exec_fetched_ne_fault {s s' : State} {i : Instr} {r : Fault} (hc : Coherent s) (hrun : fetch s = .run i s') :
    exec i s' ≠ .fault r := by
  intro h
  obtain ⟨-, -, ts, is, rx, rfl⟩ := fetch_run hrun
  obtain ⟨hen, hfull, -⟩ := exec_fault h
  exact absurd (hc.post_room hen) (Nat.not_lt.mpr hfull)

/-- Settles O14: the invariant shuts out the one fault an instruction has, TICK's post overflow. -/
theorem stepStopsOnlyInFaultedState : Obligations.StepStopsOnlyInFaultedState := by
  refine ⟨fun s r hf ht => step_of_stopped (fetch_of_faulted hf ht), fun s r hc h => ?_⟩
  obtain hstopped | ⟨i, s', hrun, hexec⟩ := step_fault h
  · exact hstopped
  · exact absurd hexec (exec_fetched_ne_fault hc hrun)

/-- Settles O7: the turn taken is enabled, and no issued operation goes before it. -/
theorem stepRunsPresentedWord : Obligations.StepRunsPresentedWord := by
  intro s w ts i hf ht hd hi
  have hen : enabledNow i s = true := turnEnabled_op hd s ▸ (takeTurn_mem ht).1
  refine ⟨hen, step_of_run ?_⟩
  rw [fetch_of_takeTurn hf ht, fetchTurn_op ts hd hi, fetchWord_enabled _ hd hen]

/-! ## The services wait for their notification (40 R115, R116) -/

theorem decodeOp_cirq : decodeOp 0x500000000000 = .instr .cirq := by decide

theorem decodeOp_tirq : decodeOp 0x600000000000 = .instr .tirq := by decide

theorem exec_cirq_waiting {s : State} (h : s.compPending = false) :
    exec .cirq s = .refused (.notEnabled "CIRQ") := by simp [exec, execCirq, h]

theorem exec_tirq_waiting {s : State} (h : s.trigIrqPending = false) :
    exec .tirq s = .refused (.notEnabled "TIRQ") := by simp [exec, execTirq, h]

/-- With every turn waiting and nothing issued, a step has nothing to do. -/
theorem step_idle {s : State} (hf : s.faulted = none) (hi : s.issued = [])
    (hw : ∀ t ∈ s.turns, turnEnabled s t = false) : step s = .next s :=
  step_of_quiet (by rw [fetch_of_no_turn hf (takeTurn_eq_none_iff.mpr hw), fetchIssued_nil s hi])

/-- Settles O11: none of the three turns can be taken, so the step is idle. -/
theorem notEnabledServicesWait : Obligations.NotEnabledServicesWait := by
  refine fun s => ⟨exec_cirq_waiting, exec_tirq_waiting, fun hf hi hcomp htrig hturns => ?_⟩
  refine step_idle hf hi fun t ht => ?_
  obtain rfl | rfl | rfl := hturns t ht
  · rw [turnEnabled_op decodeOp_cirq, enabledNow_cirq, hcomp]
  · rw [turnEnabled_op decodeOp_tirq, enabledNow_tirq, htrig]
  · simp [turnEnabled, hi]

/-! ## The front-end is left alone by the block's operations (00 R6; 48 R211) -/

/-- `t` has the front-end of `s`, and the model's fields beside it: the host link, the clock record and the queue. -/
def SameFrontEnd (s t : State) : Prop :=
  t.fe = s.fe ∧ t.hostRx = s.hostRx ∧ t.hostTx = s.hostTx ∧ t.clockSel = s.clockSel ∧ t.issued = s.issued

theorem execCfgwr_sameFrontEnd {r : BitVec 8} {v : Word32} {s t : State} (h : execCfgwr r v s = .next t) :
    SameFrontEnd s t := by
  unfold execCfgwr at h
  split at h <;> cases h <;> exact ⟨rfl, rfl, rfl, rfl, rfl⟩

theorem execArm_sameFrontEnd {s t : State} (h : execArm s = .next t) : SameFrontEnd s t := by
  unfold execArm at h
  repeat' split at h
  all_goals cases h; exact ⟨rfl, rfl, rfl, rfl, rfl⟩

theorem execAbort_sameFrontEnd {s t : State} (h : execAbort s = .next t) : SameFrontEnd s t := by
  cases h
  unfold abortTransmission abortCapture
  repeat' split
  all_goals exact ⟨rfl, rfl, rfl, rfl, rfl⟩

theorem execTick_sameFrontEnd {g : Word32} {s t : State} (h : execTick g s = .next t) : SameFrontEnd s t := by
  unfold execTick at h
  repeat' split at h
  all_goals cases h
  · exact ⟨rfl, rfl, rfl, rfl, rfl⟩
  · simp [SameFrontEnd]

theorem execCirq_sameFrontEnd {s t : State} (h : execCirq s = .next t) : SameFrontEnd s t := by
  unfold execCirq at h
  split at h <;> cases h
  exact ⟨rfl, rfl, rfl, rfl, rfl⟩

theorem execTirq_sameFrontEnd {s t : State} (h : execTirq s = .next t) : SameFrontEnd s t := by
  unfold execTirq at h
  split at h <;> cases h
  exact ⟨rfl, rfl, rfl, rfl, rfl⟩

theorem execRead_sameFrontEnd {i : Word32} {s t : State} (h : execRead i s = .next t) : SameFrontEnd s t := by
  unfold execRead at h
  repeat' split at h
  all_goals cases h; exact ⟨rfl, rfl, rfl, rfl, rfl⟩

theorem execTxstart_sameFrontEnd {s t : State} (h : execTxstart s = .next t) : SameFrontEnd s t := by
  unfold execTxstart at h
  repeat' split at h
  all_goals cases h; simp [SameFrontEnd]

/-- From any state, `oneUnit_frame`'s bound on the cursor apart: a unit appends bytes and moves the cursor. -/
theorem oneUnit_appends {s t : State} (h : oneUnit s = .ok t) : ∃ bs j, t = { emitBytes bs s with txNext := j } := by
  unfold oneUnit rleUnit rawUnit at h
  dsimp only at h
  repeat' split at h
  all_goals cases h <;> exact ⟨_, _, rfl⟩

theorem execTxunit_sameFrontEnd {c : Bool} {s t : State} (h : execTxunit c s = .next t) : SameFrontEnd s t := by
  unfold execTxunit at h
  repeat' split at h
  case h_1 u hu =>
    obtain ⟨bs, j, rfl⟩ := oneUnit_appends hu
    cases h
    unfold finishUnit
    split <;> exact ⟨rfl, rfl, rfl, rfl, rfl⟩
  all_goals cases h; exact ⟨rfl, rfl, rfl, rfl, rfl⟩

theorem illegalWord_sameFrontEnd {s t : State} (h : illegalWord s = .next t) : SameFrontEnd s t := by
  cases h
  exact ⟨rfl, rfl, rfl, rfl, rfl⟩

theorem exec_op_sameFrontEnd {i : Instr} {w : OpWord} {s t : State} (hw : encode i = .op w)
    (h : exec i s = .next t) : SameFrontEnd s t := by
  cases i with
  | cfgwr => exact execCfgwr_sameFrontEnd h
  | arm => exact execArm_sameFrontEnd h
  | abort => exact execAbort_sameFrontEnd h
  | tick => exact execTick_sameFrontEnd h
  | cirq => exact execCirq_sameFrontEnd h
  | tirq => exact execTirq_sameFrontEnd h
  | read => exact execRead_sameFrontEnd h
  | txstart => exact execTxstart_sameFrontEnd h
  | txunit => exact execTxunit_sameFrontEnd h
  | illegal0 | illegalA | illegalB | illegalC | illegalD | illegalE | illegalF => exact illegalWord_sameFrontEnd h
  | _ => cases hw

/-! ## The block is left alone by the host commands (48 R211, R291) -/

/-- `t` differs from `s` in the front-end, what goes with it, the refused mark and the events only. -/
def SameButFrontEnd (s t : State) : Prop :=
  t = { s with
    refused := t.refused, events := t.events, fe := t.fe, hostTx := t.hostTx, clockSel := t.clockSel
    issued := t.issued }

theorem execHostRun_sameButFrontEnd {s t : State} (h : execHostRun s = .next t) : SameButFrontEnd s t := by
  unfold execHostRun at h
  repeat' split at h
  all_goals cases h; rfl

theorem execHostLegacySize_sameButFrontEnd {p : Word32} {s t : State} (h : execHostLegacySize p s = .next t) :
    SameButFrontEnd s t := by
  unfold execHostLegacySize at h
  dsimp only at h
  split at h <;> cases h <;> rfl

theorem execHostPreTrigger_sameButFrontEnd {p : Word32} {s t : State} (h : execHostPreTrigger p s = .next t) :
    SameButFrontEnd s t := by
  unfold execHostPreTrigger at h
  dsimp only at h
  split at h <;> cases h <;> rfl

theorem exec_host_sameButFrontEnd {i : Instr} {bs : List Byte} {s t : State} (hbs : encode i = .host bs)
    (h : exec i s = .next t) : SameButFrontEnd s t := by
  cases i with
  | hostRun => exact execHostRun_sameButFrontEnd h
  | hostLegacySize => exact execHostLegacySize_sameButFrontEnd h
  | hostPreTrigger => exact execHostPreTrigger_sameButFrontEnd h
  | hostReset | hostSendId | hostSendMetadata | hostDivisor | hostFlags | hostTotalSamples | hostOther => cases h; rfl
  | hostTrigMask0 | hostTrigMask1 | hostTrigMask2 | hostTrigMask3 => cases h; rfl
  | hostTrigValues0 | hostTrigValues1 | hostTrigValues2 | hostTrigValues3 => cases h; rfl
  | hostTrigConfig0 | hostTrigConfig1 | hostTrigConfig2 | hostTrigConfig3 => cases h; rfl
  | _ => cases hbs

/-- Settles O56: one frame per kind of encoding, each by the instructions of that kind. -/
theorem blockAndFrontEndKeepApart : Obligations.BlockAndFrontEndKeepApart :=
  fun _ _ _ h => ⟨fun ⟨_, hw⟩ => exec_op_sameFrontEnd hw h, fun ⟨_, hbs⟩ => exec_host_sameButFrontEnd hbs h⟩

end Sys2Proof.Machine
end

section
/-! SUPPORT. The statements of spec/10_state.md: what an operation can do, said once (`Effect`), reset (R45, R46), the marks
and the outputs (R41, R42), and that every step keeps the invariant (R28, R46). -/

namespace Sys2Proof.Machine

open Sys2Proof.Config

/-! ## What an operation can do -/

/-- The ways in which an instruction that answers a next state changes `s`, with the guards the invariant needs. -/
inductive Effect (s : State) : State → Prop
  | nothing : Effect s s
  | refuses (r : RefuseReason) : Effect s (refuse r s)
  | armFaults {r : FaultReason} (hr : r = .startWhileCapturing ∨ r = .armDuringTransmit) : Effect s (raiseFault r s)
  | readFaults {i : Int} {r : FaultReason} (hvalid : s.dataValid = true) (hr : logicalRead s i = .error r) :
      Effect s (raiseFault r s)
  | unitFaults {r : FaultReason} (htx : s.txActive = true) (hr : oneUnit s = .error r) : Effect s (raiseFault r s)
  | setsTotal (v : Word32) : Effect s { s with cfgTotal := v }
  | setsPre (v : Word32) : Effect s { s with cfgPre := v }
  | setsTrig (j : Fin 4) (d : BitVec 8) : Effect s { s with cfgTrig := s.cfgTrig.set j (d.setWidth 32) }
  | setsMode (m : BitVec 3) : Effect s { s with cfgMode := m.setWidth 32 }
  | starts {l : Latched} (hidle : s.acq ≠ .capturing) (htx : s.txActive = false) (hl : latch s = some l) :
      Effect s (startCapture l s)
  | aborts : Effect s (abortTransmission (abortCapture s))
  | ticks (g : Word32) (hcap : s.acq = .capturing) : Effect s (sampleTick g s)
  | completes (hcomp : s.compPending = true) : Effect s (completeCapture s)
  | notifies : Effect s (emitEvents [.trigNotify] { s with trigIrqPending := false })
  | reads (v : Sample) : Effect s { s with readResult := some v }
  | transmits (hready : s.samplesReady = true) (hgroups : ¬ (s.lat.rle = true ∧ groupCount s.lat = 0)) :
      Effect s (startTransmission s)
  | cancels : Effect s (endTransmission s)
  | sendsUnit {u : State} (htx : s.txActive = true) (hu : oneUnit s = .ok u) : Effect s (finishUnit u)
  | setsFrontEnd (fe : FrontEnd) : Effect s { s with fe := fe }
  | hostResets (ws : List OpWord) (fe : FrontEnd) : Effect s (issueOps ws { s with fe := fe })
  | hostRuns (ws : List OpWord) (es : List Event) (c : Option ClockSel) :
      Effect s (issueOps ws (emitEvents es { s with clockSel := c }))
  | sendsHost (bs : List Byte) : Effect s (sendHost bs s)

theorem execCfgwr_effect {r : BitVec 8} {v : Word32} {s t : State} (h : execCfgwr r v s = .next t) : Effect s t := by
  unfold execCfgwr at h
  split at h <;> cases h
  · exact .setsTotal v
  · exact .setsPre v
  · exact .setsTrig 0 _
  · exact .setsTrig 1 _
  · exact .setsTrig 2 _
  · exact .setsTrig 3 _
  · exact .setsMode _
  · exact .refuses _

theorem execArm_effect {s t : State} (h : execArm s = .next t) : Effect s t := by
  unfold execArm at h
  split at h
  · cases h; exact .armFaults (.inl rfl)
  next hidle =>
    split at h
    · cases h; exact .armFaults (.inr rfl)
    next htx =>
      split at h <;> cases h
      · exact .refuses _
      next l hl => exact .starts hidle (by simpa using htx) hl

theorem execTick_next {g : Word32} {s t : State} (h : execTick g s = .next t) :
    t = s ∨ s.acq = .capturing ∧ t = sampleTick g s := by
  unfold execTick at h
  split at h
  · cases h; exact .inl rfl
  next hcap =>
    split at h <;> cases h
    cases hacq : s.acq with
    | idle => exact absurd hacq hcap
    | capturing => exact .inr ⟨rfl, rfl⟩

theorem execTick_effect {g : Word32} {s t : State} (h : execTick g s = .next t) : Effect s t := by
  obtain rfl | ⟨hcap, rfl⟩ := execTick_next h
  · exact .nothing
  · exact .ticks g hcap

theorem execCirq_effect {s t : State} (h : execCirq s = .next t) : Effect s t := by
  unfold execCirq at h
  split at h <;> cases h
  exact .completes ‹_›

theorem execTirq_effect {s t : State} (h : execTirq s = .next t) : Effect s t := by
  unfold execTirq at h
  split at h <;> cases h
  exact .notifies

theorem execRead_effect {i : Word32} {s t : State} (h : execRead i s = .next t) : Effect s t := by
  unfold execRead at h
  split at h
  next hvalid =>
    split at h <;> cases h
    · exact .reads _
    next r hr => exact .readFaults hvalid hr
  · cases h; exact .refuses _

theorem execTxstart_effect {s t : State} (h : execTxstart s = .next t) : Effect s t := by
  unfold execTxstart at h
  split at h
  next hready =>
    split at h <;> cases h
    · exact .refuses _
    next hgroups => exact .transmits hready hgroups
  · cases h; exact .refuses _

theorem execTxunit_effect {c : Bool} {s t : State} (h : execTxunit c s = .next t) : Effect s t := by
  unfold execTxunit at h
  split at h
  next htx =>
    split at h
    · cases h; exact .cancels
    · split at h <;> cases h
      next u hu => exact .sendsUnit htx hu
      next r hr => exact .unitFaults htx hr
  · cases h; exact .refuses _

theorem execHostRun_effect {s t : State} (h : execHostRun s = .next t) : Effect s t := by
  unfold execHostRun at h
  split at h
  · cases h; exact .refuses _
  · split at h <;> cases h
    · exact .refuses _
    · exact .hostRuns _ _ _

theorem execHostLegacySize_effect {p : Word32} {s t : State} (h : execHostLegacySize p s = .next t) : Effect s t := by
  unfold execHostLegacySize at h
  dsimp only at h
  split at h <;> cases h
  · exact .refuses _
  · exact .setsFrontEnd _

theorem execHostPreTrigger_effect {p : Word32} {s t : State} (h : execHostPreTrigger p s = .next t) : Effect s t := by
  unfold execHostPreTrigger at h
  dsimp only at h
  split at h <;> cases h
  · exact .refuses _
  · exact .setsFrontEnd _

theorem exec_effect {i : Instr} {s t : State} (h : exec i s = .next t) : Effect s t := by
  cases i with
  | cfgwr => exact execCfgwr_effect h
  | arm => exact execArm_effect h
  | abort => cases h; exact .aborts
  | tick => exact execTick_effect h
  | cirq => exact execCirq_effect h
  | tirq => exact execTirq_effect h
  | read => exact execRead_effect h
  | txstart => exact execTxstart_effect h
  | txunit => exact execTxunit_effect h
  | illegal0 | illegalA | illegalB | illegalC | illegalD | illegalE | illegalF => cases h; exact .refuses _
  | hostReset => cases h; exact .hostResets _ _
  | hostRun => exact execHostRun_effect h
  | hostSendId | hostSendMetadata => cases h; exact .sendsHost _
  | hostLegacySize => exact execHostLegacySize_effect h
  | hostPreTrigger => exact execHostPreTrigger_effect h
  | hostOther => cases h; exact .nothing
  | _ => cases h; exact .setsFrontEnd _

/-- A step takes its inputs (turns, issued operations, link slots) and then has an operation's effect, or is a block
reset. -/
theorem step_next {s t : State} (h : step s = .next t) :
    (∃ ts is rx, Effect { s with turns := ts, issued := is, hostRx := rx } t) ∨
    (Turn.blockReset ∈ s.turns ∧ ∃ ts, t = { State.reset with turns := ts, hostRx := s.hostRx }) := by
  cases hf : fetch s with
  | stopped r => rw [step_of_stopped hf] at h; cases h
  | quiet s' =>
    rw [step_of_quiet hf] at h
    cases h
    obtain ⟨ts, is, rx, rfl⟩ | hreset := fetch_quiet hf
    · exact .inl ⟨ts, is, rx, .nothing⟩
    · exact .inr hreset
  | rejected e s' =>
    obtain ⟨-, ts, is, rx, rfl⟩ := fetch_rejected hf
    rw [step, hf] at h
    cases h
    exact .inl ⟨ts, is, rx, .refuses _⟩
  | run i s' =>
    obtain ⟨-, -, ts, is, rx, rfl⟩ := fetch_run hf
    rw [step_of_run hf] at h
    exact .inl ⟨ts, is, rx, exec_effect h⟩

/-! ## Marks and outputs (10 R41, R42) -/

/-- No mark of `s` is lifted in `t`, and the outputs of `s` are initial segments of those of `t`. -/
structure RecordKept (s t : State) : Prop where
  faulted : s.faulted ≠ none → t.faulted ≠ none
  refused : s.refused ≠ none → t.refused ≠ none
  txOut : s.txOut <+: t.txOut
  events : s.events <+: t.events

theorem RecordKept.trans {s t u : State} (hst : RecordKept s t) (htu : RecordKept t u) : RecordKept s u :=
  ⟨htu.faulted ∘ hst.faulted, htu.refused ∘ hst.refused, hst.txOut.trans htu.txOut, hst.events.trans htu.events⟩

theorem RecordKept.of_eq {s t : State} (hfaulted : t.faulted = s.faulted) (hrefused : t.refused = s.refused)
    (htxOut : t.txOut = s.txOut) (hevents : t.events = s.events) : RecordKept s t := by
  constructor <;> simp [*]

theorem abortCapture_recordKept (s : State) : RecordKept s (abortCapture s) := by
  unfold abortCapture
  split <;> exact .of_eq rfl rfl rfl rfl

theorem abortTransmission_recordKept (s : State) : RecordKept s (abortTransmission s) := by
  unfold abortTransmission
  split <;> exact .of_eq rfl rfl rfl rfl

theorem startTransmission_recordKept (s : State) : RecordKept s (startTransmission s) := by
  refine ⟨by simp, by simp, by simp, ?_⟩
  unfold startTransmission
  split
  · exact List.prefix_append _ _
  · exact List.prefix_rfl

theorem oneUnit_recordKept {s u : State} (h : oneUnit s = .ok u) : RecordKept s u := by
  obtain ⟨bs, j, rfl⟩ := oneUnit_appends h
  exact ⟨id, id, List.prefix_append _ _, List.prefix_rfl⟩

theorem finishUnit_recordKept (s : State) : RecordKept s (finishUnit s) := by
  unfold finishUnit
  split <;> exact .of_eq rfl rfl rfl rfl

theorem Effect.recordKept {s t : State} (h : Effect s t) : RecordKept s t := by
  cases h with
  | armFaults | readFaults | unitFaults => exact ⟨fun _ => by simp, id, List.prefix_rfl, List.prefix_rfl⟩
  | refuses => exact ⟨id, fun _ => by simp, List.prefix_rfl, List.prefix_rfl⟩
  | completes | notifies | hostRuns => exact ⟨id, id, List.prefix_rfl, List.prefix_append _ _⟩
  | aborts => exact (abortCapture_recordKept s).trans (abortTransmission_recordKept _)
  | ticks g => exact .of_eq (by simp) (by simp) (by simp) (by simp)
  | transmits => exact startTransmission_recordKept s
  | sendsUnit _ hu => exact (oneUnit_recordKept hu).trans (finishUnit_recordKept _)
  | _ => exact .of_eq rfl rfl rfl rfl

/-- Settles O43: every effect keeps the record. -/
theorem outputsAreAppendOnly : Obligations.OutputsAreAppendOnly := fun _ _ _ h =>
  have hk := (exec_effect h).recordKept
  ⟨hk.txOut, hk.events⟩

/-- Settles O15: every effect keeps the record, and a step that is no block reset is an effect. -/
theorem marksAreNeverCleared : Obligations.MarksAreNeverCleared := by
  refine ⟨fun i s t h => ?_, fun s t hturns h => ?_⟩
  · have hk := (exec_effect h).recordKept
    exact ⟨hk.faulted, hk.refused⟩
  · obtain ⟨ts, is, rx, heff⟩ | ⟨hreset, -⟩ := step_next h
    · exact heff.recordKept.refused
    · exact absurd hreset hturns

/-! ## Reset (10 R45, R46; 70 R290) -/

theorem step_blockReset {s : State} {ts : List Turn} (h : s.turns = .blockReset :: ts) :
    step s = .next (resetBlock ts s) := by
  apply step_of_quiet
  cases hf : s.faulted with
  | some r => simp [fetch, hf, h]
  | none =>
    have ht : takeTurn s s.turns = some (.blockReset, ts) := h ▸ takeTurn_cons_enabled ts rfl
    rw [fetch_of_takeTurn hf ht, fetchTurn]

/-- Settles O16: the values by computation, the four-element registers slot by slot. -/
theorem resetValues : Obligations.ResetValues := by
  refine ⟨fun s ts => step_blockReset, ?_⟩
  intro s
  have hcfgTrig : ∀ j : Fin 4, s.cfgTrig[j] = 0 := by decide
  have hlatTrig : ∀ j : Fin 4, s.lat.trig[j] = 0 := by decide
  have href : ∀ j : Fin 4, s.ref[j] = none := by decide
  have hstages : ∀ j : Fin 4, s.fe.stages[j] = { mask := 0, values := 0, config := 0 } := by decide
  have hring : ∀ k, s.ring.read k = none := Memory.read_nil
  have hpost : ∀ k, s.post.read k = none := Memory.read_nil
  exact ⟨rfl, rfl, hcfgTrig, rfl, rfl, rfl, rfl, rfl, hlatTrig, rfl, rfl, rfl, rfl, rfl, rfl, rfl, rfl, rfl, href, hring,
    hpost, rfl, rfl, rfl, rfl, rfl, rfl, rfl, rfl, rfl, rfl, rfl, rfl, rfl, rfl, rfl, rfl, hstages, rfl, rfl, rfl⟩

theorem State.reset_listed : Listed State.reset := by constructor <;> decide

theorem State.reset_ranges : Ranges State.reset := by constructor <;> decide

theorem State.reset_written : Written State.reset where
  post_slots k hk := absurd hk (Nat.not_lt_zero k)
  ring_slots hcap := nomatch hcap
  window_slots hvalid := nomatch hvalid

/-- Settles O57: nothing runs, nothing is held and nothing has been written. -/
theorem resetIsCoherent : Obligations.ResetIsCoherent where
  listed := State.reset_listed
  ranges := State.reset_ranges
  storage := ⟨State.reset_storage_wf.1, State.reset_storage_wf.2⟩
  written := State.reset_written

/-! ## TICK's sub-steps keep the invariant (41 R142 to R146) -/

theorem ringPos_lt (s : State) : ringPos s < RING_CAP := Nat.mod_lt _ (by decide)

theorem writtenSinceArm_ringStep {w : Sample} {s : State} (h : s.ringEn = true) :
    writtenSinceArm (ringStep w s) = (writtenSinceArm s + 1) % 2 ^ 32 := by
  have hcount : INITIAL_COUNT - (s.ringRemaining - 1) = (INITIAL_COUNT - s.ringRemaining) + 1 := by ring
  simp only [writtenSinceArm, ringStep, if_pos h, hcount]
  simp [BitVec.toNat_add]

theorem isSome_read_write {m : Memory} {k k' : Nat} (w : Sample) (h : k' ≠ k → (m.read k').isSome = true) :
    ((m.write k w).read k').isSome = true := by
  rw [Memory.read_write]
  split
  · rfl
  · exact h ‹_›

/-- The slot the sampler writes is the one the advanced counter newly covers (10 R33). -/
theorem ringStep_ring_slots {w : Sample} {s : State} (hen : s.ringEn = true)
    (hs : ∀ k < min (writtenSinceArm s) RING_CAP, (s.ring.read k).isSome = true) :
    ∀ k < min (writtenSinceArm (ringStep w s)) RING_CAP, ((ringStep w s).ring.read k).isSome = true := by
  intro k hk
  rw [writtenSinceArm_ringStep hen] at hk
  have hring : (ringStep w s).ring = s.ring.write (ringPos s) w := by rw [ringStep, if_pos hen]
  rw [hring]
  refine isSome_read_write w fun hne => hs k ?_
  unfold ringPos RING_CAP at *
  omega

theorem ringStep_coherent {s : State} (w : Sample) (hc : Coherent s) : Coherent (ringStep w s) := by
  cases hen : s.ringEn with
  | false => rwa [ringStep_off hen]
  | true =>
    obtain ⟨hl, hr, hf, hw⟩ := hc
    have hcap := hl.ringEn_capturing hen
    have hslots := ringStep_ring_slots (w := w) hen (hw.ring_slots hcap)
    have hinvalid := (hl.capturing_excludes hcap).1
    rw [ringStep, if_pos hen] at hslots ⊢
    exact {
      listed := { hl with }
      ranges := { hr with }
      storage := { hf with ring_wf := Memory.wf_write w (ringPos_lt s) hf.ring_wf }
      written := { hw with
        ring_slots := fun _ => hslots
        window_slots := fun hvalid => absurd hvalid (by simp [hinvalid]) } }

/-- The multiplexer is off and no completion is pending while the post sampler runs (10 R46). -/
theorem Coherent.postEn_excludes {s : State} (hc : Coherent s) (hen : s.postEn = true) :
    s.muxEn = false ∧ s.compPending = false := by
  refine ⟨Bool.eq_false_iff.mpr fun hmux => ?_, Bool.eq_false_iff.mpr fun hcomp => ?_⟩
  · obtain ⟨-, hoff, -⟩ := hc.ranges.mux_gates hmux
    exact absurd hen (by simp [hoff])
  · obtain ⟨-, hoff, -⟩ := hc.listed.comp_filled hcomp
    exact absurd hen (by simp [hoff])

theorem postStep_coherent {s : State} (w : Sample) (hc : Coherent s) : Coherent (postStep w s) := by
  cases hen : s.postEn with
  | false => rwa [postStep_off hen]
  | true =>
    obtain ⟨hmux, hcomp⟩ := hc.postEn_excludes hen
    obtain ⟨hl, hr, hf, hw⟩ := hc
    have hcap := hl.postEn_capturing hen
    have hroom := hr.postEn_room hen
    have hinvalid := (hl.capturing_excludes hcap).1
    rw [postStep, if_pos hen]
    exact {
      listed := { hl with
        postEn_capturing := fun _ => hcap
        comp_filled := fun hp =>
          have hfull : s.postCount + 1 = s.lat.post := by simpa [hcomp] using hp
          ⟨hcap, by simp [hfull], hfull⟩
        count_le := hroom }
      ranges := { hr with
        postEn_room := fun hp => by simp at hp ⊢; omega
        mux_gates := fun hm => absurd hm (by simp [hmux])
        valid_filled := fun hv => absurd hv (by simp [hinvalid]) }
      storage := { hf with post_wf := Memory.wf_write w (hroom.trans_le hr.post_le) hf.post_wf }
      written := { hw with
        post_slots := fun k hk => isSome_read_write w fun hne => hw.post_slots k (by simp at hk; omega) } }

/-- With the multiplexer on, the countdown may stand anywhere. -/
theorem handoff_coherent {s : State} (n : Option Nat) (hc : Coherent s) (hmux : s.muxEn = true) :
    Coherent { s with handoff := n } where
  listed := { hc.listed with handoff_armed := fun _ => ⟨hmux, (hc.ranges.mux_gates hmux).1⟩ }
  ranges := { hc.ranges with }
  storage := { hc.storage with }
  written := { hc.written with }

theorem countdownStep_coherent {s : State} (hc : Coherent s) : Coherent (countdownStep s) := by
  unfold countdownStep
  split
  next n hn => exact handoff_coherent _ hc (hc.listed.handoff_armed (by simp [hn])).1
  · exact hc

theorem triggerStep_coherent {s : State} (g : Word32) (hc : Coherent s) : Coherent (triggerStep g s) := by
  unfold triggerStep
  split
  next hguard =>
    obtain ⟨-, hmux, -⟩ := hguard
    split
    · exact coherent_of_same (handoff_coherent (some HANDOFF_DELAY) hc hmux) (by constructor <;> rfl)
    · exact coherent_of_same hc (by constructor <;> rfl)
  · exact hc

theorem handoffStep_coherent {s : State} (hc : Coherent s) : Coherent (handoffStep s) := by
  unfold handoffStep
  split
  next h0 =>
    obtain ⟨hmux, hring⟩ := hc.listed.handoff_armed (by simp [h0])
    obtain ⟨-, -, hcomp, hroom⟩ := hc.ranges.mux_gates hmux
    have hcap := hc.listed.ringEn_capturing hring
    exact {
      listed := { hc.listed with
        postEn_capturing := fun _ => hcap
        ringEn_capturing := nofun
        comp_filled := fun hp => absurd hp (by simp [hcomp])
        mux_watch := rfl
        handoff_armed := fun h => absurd rfl h }
      ranges := { hc.ranges with
        postEn_room := fun _ => hroom
        mux_gates := nofun }
      storage := { hc.storage with }
      written := { hc.written with } }
  · exact hc

theorem sampleTick_coherent {s : State} (g : Word32) (hc : Coherent s) : Coherent (sampleTick g s) :=
  handoffStep_coherent (triggerStep_coherent g (countdownStep_coherent (postStep_coherent _ (ringStep_coherent _ hc))))

theorem sampleTick_compPending_of_postEn {g : Word32} {s : State} (h : s.postEn = false) :
    (sampleTick g s).compPending = s.compPending := by simp [sampleTick, h]

theorem sampleTick_trigIrqPending_of_muxEn {g : Word32} {s : State} (h : s.muxEn = false) :
    (sampleTick g s).trigIrqPending = s.trigIrqPending := by
  rw [sampleTick, handoffStep_trigIrqPending, triggerStep_off (.inr (.inl (by simp [h])))]
  simp

/-- Settles O32: only the post sampler raises a completion, and while that runs the multiplexer is off. -/
theorem tickNeverRaisesBoth : Obligations.TickNeverRaisesBoth := by
  intro g s t hc h hbefore hafter
  obtain rfl | ⟨-, rfl⟩ := execTick_next h
  · rfl
  · cases hen : s.postEn with
    | false =>
      rw [sampleTick_compPending_of_postEn hen] at hafter
      exact absurd hafter (by simp [hbefore])
    | true => exact sampleTick_trigIrqPending_of_muxEn (hc.postEn_excludes hen).1

/-! ## Configuration, ARM, ABORT and CIRQ keep the invariant (40 R110 to R115) -/

theorem cfgTrig_set_coherent {s : State} (j : Fin 4) (d : BitVec 8) (hc : Coherent s) :
    Coherent { s with cfgTrig := s.cfgTrig.set j (d.setWidth 32) } where
  listed := { hc.listed with }
  ranges := { hc.ranges with
    trig_kept := fun k => by
      have hd : (d.setWidth 32).toNat < 256 := by simp; omega
      have hk := hc.ranges.trig_kept k
      simp only [Fin.getElem_fin, Vector.getElem_set] at hk ⊢
      split
      · exact hd
      · exact hk }
  storage := { hc.storage with }
  written := { hc.written with }

theorem cfgMode_coherent {s : State} (m : BitVec 3) (hc : Coherent s) :
    Coherent { s with cfgMode := m.setWidth 32 } where
  listed := { hc.listed with }
  ranges := { hc.ranges with mode_kept := by simp; omega }
  storage := { hc.storage with }
  written := { hc.written with }

/-- What ARM latches (40 R112). -/
theorem latch_ranges {s : State} {l : Latched} (h : latch s = some l) :
    l.pre ≤ RING_CAP ∧ 1 ≤ l.post ∧ l.post ≤ POST_CAP ∧ l.pre + l.post ≤ l.total ∧
    l.ntrig = l.trig.toList.countP trigEn := by
  unfold latch at h
  dsimp only at h
  split at h <;> cases h
  dsimp only [RING_CAP, POST_CAP] at *
  refine ⟨?_, ?_, ?_, ?_, rfl⟩ <;> omega

theorem startCapture_coherent {s : State} {l : Latched} (hc : Coherent s) (htx : s.txActive = false)
    (hl : latch s = some l) : Coherent (startCapture l s) := by
  obtain ⟨hpre, hpos, hpost, htotal, hntrig⟩ := latch_ranges hl
  have hzero : writtenSinceArm (startCapture l s) = 0 := by simp [writtenSinceArm]
  exact {
    listed := {
      postEn_capturing := fun _ => rfl
      ringEn_capturing := fun _ => rfl
      comp_filled := nofun
      mux_watch := rfl
      handoff_armed := fun h => absurd rfl h
      capturing_excludes := fun _ => ⟨rfl, rfl, htx⟩
      ready_valid := nofun
      tx_valid := fun h => absurd h (by simp [htx])
      count_le := Nat.zero_le _ }
    ranges := { hc.ranges with
      pre_le := hpre
      post_le := hpost
      total_ge := htotal
      ntrig_count := hntrig
      post_pos := fun _ => hpos
      postEn_room := fun _ => hpos
      mux_gates := fun h => ⟨rfl, by simpa using h, rfl, hpos⟩
      valid_filled := nofun
      first_lt := by simp
      avail_le := Nat.zero_le _
      underrun_iff := nofun
      tx_cursor := fun h => absurd h (by simp [htx])
      tx_groups := fun h => absurd h (by simp [htx]) }
    storage := { hc.storage with }
    written := {
      post_slots := fun k hk => absurd hk (Nat.not_lt_zero k)
      ring_slots := fun _ k hk => absurd hk (by simp [hzero])
      window_slots := nofun } }

theorem abortCapture_coherent {s : State} (hc : Coherent s) : Coherent (abortCapture s) := by
  unfold abortCapture
  split
  next hcap =>
    exact {
      listed := { hc.listed with
        postEn_capturing := nofun
        ringEn_capturing := nofun
        comp_filled := nofun
        mux_watch := rfl
        handoff_armed := fun h => absurd rfl h
        capturing_excludes := nofun }
      ranges := { hc.ranges with
        post_pos := fun _ => hc.ranges.post_pos (.inl hcap)
        postEn_room := nofun
        mux_gates := nofun }
      storage := { hc.storage with }
      written := { hc.written with ring_slots := nofun } }
  · exact hc

theorem endTransmission_coherent {s : State} (hc : Coherent s) : Coherent (endTransmission s) where
  listed := { hc.listed with
    capturing_excludes := fun h =>
      have ⟨hinvalid, hnotReady, _⟩ := hc.listed.capturing_excludes h
      ⟨hinvalid, hnotReady, rfl⟩
    tx_valid := nofun }
  ranges := { hc.ranges with tx_cursor := nofun, tx_idle := fun _ => rfl, tx_groups := nofun }
  storage := { hc.storage with }
  written := { hc.written with }

theorem abortTransmission_coherent {s : State} (hc : Coherent s) : Coherent (abortTransmission s) := by
  unfold abortTransmission
  split
  · exact endTransmission_coherent hc
  · exact hc

/-- The window lies in the ring, holds no more than was asked for, and holds written slots only (42 R170, R175). -/
theorem window_spec {written pre : Nat} (hpre : pre ≤ RING_CAP) :
    (window written pre).1 < RING_CAP ∧ (window written pre).2 ≤ pre ∧
    ∀ i < (window written pre).2, ((window written pre).1 + i) % RING_CAP < min written RING_CAP := by
  unfold window
  dsimp only [RING_CAP] at *
  split <;> refine ⟨by omega, by omega, fun i hi => by omega⟩

theorem completeCapture_coherent {s : State} (hc : Coherent s) (hcomp : s.compPending = true) :
    Coherent (completeCapture s) := by
  obtain ⟨hcap, -, hfull⟩ := hc.listed.comp_filled hcomp
  obtain ⟨-, -, htx⟩ := hc.listed.capturing_excludes hcap
  obtain ⟨hfirst, havail, hslots⟩ := window_spec (written := writtenSinceArm s) hc.ranges.pre_le
  exact {
    listed := { hc.listed with
      postEn_capturing := nofun
      ringEn_capturing := nofun
      comp_filled := nofun
      mux_watch := rfl
      handoff_armed := fun h => absurd rfl h
      capturing_excludes := nofun
      ready_valid := fun _ => rfl
      tx_valid := fun _ => rfl }
    ranges := { hc.ranges with
      post_pos := fun _ => hc.ranges.post_pos (.inl hcap)
      postEn_room := nofun
      mux_gates := nofun
      valid_filled := fun _ => hfull
      first_lt := hfirst
      avail_le := havail
      underrun_iff := fun _ => rfl }
    storage := { hc.storage with }
    written := { hc.written with
      ring_slots := nofun
      window_slots := fun _ i hi => hc.written.ring_slots hcap _ (hslots i hi) } }

/-! ## The transmission's operations keep the invariant (42 R178 to R182) -/

theorem startTransmission_sameBlock (s : State) :
    SameBlock { s with samplesReady := false, txActive := true, txNext := (s.lat.total : Int) - 1 }
      (startTransmission s) := by
  unfold startTransmission
  split <;> constructor <;> rfl

theorem startTransmission_coherent {s : State} (hc : Coherent s) (hready : s.samplesReady = true)
    (hgroups : ¬ (s.lat.rle = true ∧ groupCount s.lat = 0)) : Coherent (startTransmission s) := by
  have hvalid := hc.listed.ready_valid hready
  have hpos := hc.ranges.post_pos (.inr hvalid)
  have htotal := hc.ranges.total_ge
  refine coherent_of_same ?_ (startTransmission_sameBlock s)
  exact {
    listed := { hc.listed with
      capturing_excludes := fun h => absurd hvalid (by simp [(hc.listed.capturing_excludes h).1])
      ready_valid := nofun
      tx_valid := fun _ => hvalid }
    ranges := { hc.ranges with
      tx_cursor := fun _ => ⟨by simp; omega, by simp⟩
      tx_idle := nofun
      tx_groups := fun _ hrle hzero => hgroups ⟨hrle, hzero⟩ }
    storage := { hc.storage with }
    written := { hc.written with } }

/-- A unit moves the cursor down, and the transmission ends just below the lower bound (42 R179). -/
theorem finishUnit_coherent {s u : State} (hc : Coherent s) (htx : s.txActive = true) (hu : oneUnit s = .ok u) :
    Coherent (finishUnit u) := by
  obtain ⟨h0, hlt⟩ := hc.ranges.tx_cursor htx
  obtain ⟨bs, j, rfl, hlow, hdown⟩ := oneUnit_frame h0 hu
  have hvalid := hc.listed.tx_valid htx
  unfold finishUnit
  split
  next hend =>
    have hj : j = -1 := by simp at hend; omega
    subst hj
    exact coherent_of_same (endTransmission_coherent hc) (by constructor <;> rfl)
  next hmore =>
    exact {
      listed := { hc.listed with }
      ranges := { hc.ranges with
        tx_cursor := fun _ => ⟨not_lt.mp hmore, hdown.trans hlt⟩
        tx_idle := fun h => absurd h (by simp [htx]) }
      storage := { hc.storage with }
      written := { hc.written with } }

/-! ## Every step keeps the invariant (10 R28, R46) -/

theorem Effect.coherent {s t : State} (h : Effect s t) (hc : Coherent s) : Coherent t := by
  cases h with
  | setsTrig j d => exact cfgTrig_set_coherent j d hc
  | setsMode m => exact cfgMode_coherent m hc
  | starts _ htx hl => exact startCapture_coherent hc htx hl
  | aborts => exact abortTransmission_coherent (abortCapture_coherent hc)
  | ticks g => exact sampleTick_coherent g hc
  | completes hcomp => exact completeCapture_coherent hc hcomp
  | transmits hready hgroups => exact startTransmission_coherent hc hready hgroups
  | cancels => exact endTransmission_coherent hc
  | sendsUnit htx hu => exact finishUnit_coherent hc htx hu
  | _ => exact coherent_of_same hc (by constructor <;> rfl)

/-- Settles O58: a step is an effect after its inputs are taken, which the invariant does not read, or a block reset. -/
theorem stepKeepsCoherent : Obligations.StepKeepsCoherent := by
  intro s t hc h
  obtain ⟨ts, is, rx, heff⟩ | ⟨-, ts, rfl⟩ := step_next h
  · exact heff.coherent (coherent_of_same hc (by constructor <;> rfl))
  · exact coherent_of_same resetIsCoherent (by constructor <;> rfl)

end Sys2Proof.Machine
end

section
/-! SUPPORT. The statements of spec/20_memory.md: what a read of each storage answers (R61, R62), that both storages keep
their form (R60 to R62), and that no step reads a slot with no value (R63). -/

namespace Sys2Proof.Machine

open Sys2Proof.Config

/-! ## What a logical read answers (42 R172), range by range -/

theorem ringRead_of_some {s : State} {k : Nat} {w : Sample} (h : s.ring.read k = some w) : ringRead s k = .ok w := by
  simp [ringRead, h]

theorem ringRead_of_none {s : State} {k : Nat} (h : s.ring.read k = none) :
    ringRead s k = .error (.readUnwrittenRing k) := by simp [ringRead, h]

theorem postRead_of_some {s : State} {k : Nat} {w : Sample} (h : s.post.read k = some w) : postRead s k = .ok w := by
  simp [postRead, h]

theorem postRead_of_none {s : State} {k : Nat} (h : s.post.read k = none) :
    postRead s k = .error (.readUnwrittenPost k) := by simp [postRead, h]

/-- An index in the window is a ring slot. -/
theorem logicalRead_window {s : State} {i : Nat} (h : i < s.winAvail) :
    logicalRead s i = ringRead s ((s.winFirst + i) % RING_CAP) := by
  have hslot : (((s.winFirst : Int) + i) % (RING_CAP : Nat)).toNat = (s.winFirst + i) % RING_CAP := by
    unfold RING_CAP
    omega
  rw [logicalRead, if_pos (by omega), hslot]

/-- An index beyond the window by less than L_POST is a post slot. -/
theorem logicalRead_post {s : State} {i : Nat} (hlow : s.winAvail ≤ i) (hhigh : i < s.winAvail + s.lat.post) :
    logicalRead s i = postRead s (i - s.winAvail) := by
  have hslot : ((i : Int) - s.winAvail).toNat = i - s.winAvail := by omega
  rw [logicalRead, if_neg (by omega), if_pos (by omega), hslot]

/-- Any other index reads 0. -/
theorem logicalRead_outside {s : State} {i : Int} (h : i < 0 ∨ (s.winAvail : Int) + s.lat.post ≤ i) :
    logicalRead s i = .ok 0 := by
  rw [logicalRead, if_neg (by omega), if_neg (by omega)]

/-! ## No read of an unwritten slot (20 R63; 42 R175) -/

/-- Every logical index has a value. -/
def Readable (s : State) : Prop := ∀ i : Int, ∃ v, logicalRead s i = .ok v

/-- The window's slots and the post slots below L_POST, which the fill count has reached, are written. -/
theorem Coherent.readable {s : State} (hc : Coherent s) (hvalid : s.dataValid = true) : Readable s := by
  intro i
  by_cases hout : i < 0 ∨ (s.winAvail : Int) + s.lat.post ≤ i
  · exact ⟨0, logicalRead_outside hout⟩
  lift i to Nat using by omega
  by_cases hwin : i < s.winAvail
  · obtain ⟨w, hw⟩ := Option.isSome_iff_exists.mp (hc.written.window_slots hvalid i hwin)
    exact ⟨w, (logicalRead_window hwin).trans (ringRead_of_some hw)⟩
  · have hfull := hc.ranges.valid_filled hvalid
    obtain ⟨w, hw⟩ := Option.isSome_iff_exists.mp (hc.written.post_slots (i - s.winAvail) (by omega))
    exact ⟨w, (logicalRead_post (by omega) (by omega)).trans (postRead_of_some hw)⟩

theorem Readable.read_ne_error {s : State} (hs : Readable s) {i : Int} {r : FaultReason} :
    logicalRead s i ≠ .error r := by
  obtain ⟨v, hv⟩ := hs i
  simp [hv]

theorem Readable.extendRun_ne_error {s : State} (hs : Readable s) {v : Sample} {r : FaultReason} {left n : Nat}
    {j : Int} : extendRun s v left n j ≠ .error r := by
  induction left generalizing n j with
  | zero => simp [extendRun]
  | succ left ih =>
    obtain ⟨x, hx⟩ := hs j
    rw [extendRun, hx]
    split
    · nofun
    · dsimp only
      split
      · exact ih
      · nofun

theorem Readable.rawUnit_ne_error {s : State} (hs : Readable s) {r : FaultReason} : rawUnit s ≠ .error r := by
  obtain ⟨v, hv⟩ := hs s.txNext
  simp [rawUnit, hv]

theorem Readable.rleUnit_ne_error {s : State} (hs : Readable s) {r : FaultReason} : rleUnit s ≠ .error r := by
  obtain ⟨x, hx⟩ := hs s.txNext
  rw [rleUnit, hx]
  dsimp only
  split
  next r' hr' => exact absurd hr' hs.extendRun_ne_error
  · nofun

theorem Readable.oneUnit_ne_error {s : State} (hs : Readable s) {r : FaultReason} : oneUnit s ≠ .error r := by
  unfold oneUnit
  split
  · exact hs.rleUnit_ne_error
  · exact hs.rawUnit_ne_error

@[simp] theorem abortCapture_faulted (s : State) : (abortCapture s).faulted = s.faulted := by
  unfold abortCapture; split <;> rfl

@[simp] theorem abortTransmission_faulted (s : State) : (abortTransmission s).faulted = s.faulted := by
  unfold abortTransmission; split <;> rfl

@[simp] theorem finishUnit_faulted (s : State) : (finishUnit s).faulted = s.faulted := by
  unfold finishUnit; split <;> rfl

theorem oneUnit_faulted {s u : State} (h : oneUnit s = .ok u) : u.faulted = s.faulted := by
  obtain ⟨bs, j, rfl⟩ := oneUnit_appends h
  rfl

/-- The two faults of a misplaced ARM are the only ones an operation raises where the invariant holds. -/
theorem Effect.faulted {s t : State} (h : Effect s t) (hc : Coherent s) :
    t.faulted = s.faulted ∨ t.faulted = some .startWhileCapturing ∨ t.faulted = some .armDuringTransmit := by
  cases h with
  | armFaults hr => simpa using .inr hr
  | readFaults hvalid hr => exact absurd hr (hc.readable hvalid).read_ne_error
  | unitFaults htx hr => exact absurd hr (hc.readable (hc.listed.tx_valid htx)).oneUnit_ne_error
  | sendsUnit _ hu => exact .inl ((finishUnit_faulted _).trans (oneUnit_faulted hu))
  | aborts | ticks | transmits => exact .inl (by simp)
  | _ => exact .inl rfl

/-- Settles O60: a completed capture is readable, so neither READ nor a unit finds a slot with no value. -/
theorem noReadOfAnUnwrittenSlot : Obligations.NoReadOfAnUnwrittenSlot := by
  refine ⟨fun s hc hvalid => hc.readable hvalid, fun s t hc h hf => ?_⟩
  obtain ⟨ts, is, rx, heff⟩ | ⟨-, ts, rfl⟩ := step_next h
  · simpa only [hf] using heff.faulted (coherent_of_same hc (by constructor <;> rfl))
  · exact .inl rfl

/-! ## Both storages keep their form (20 R60 to R62) -/

/-- `t` has both storages of `s`. -/
def SameStorage (s t : State) : Prop := t.ring = s.ring ∧ t.post = s.post

theorem SameStorage.trans {s t u : State} (hst : SameStorage s t) (htu : SameStorage t u) : SameStorage s u :=
  ⟨htu.1.trans hst.1, htu.2.trans hst.2⟩

theorem SameStorage.form {s t : State} (h : SameStorage s t) (hf : StorageForm s) : StorageForm t :=
  ⟨h.1 ▸ hf.ring_wf, h.2 ▸ hf.post_wf⟩

theorem execCfgwr_sameStorage {r : BitVec 8} {v : Word32} {s t : State} (h : execCfgwr r v s = .next t) :
    SameStorage s t := by
  unfold execCfgwr at h
  split at h <;> cases h <;> exact ⟨rfl, rfl⟩

theorem execArm_sameStorage {s t : State} (h : execArm s = .next t) : SameStorage s t := by
  unfold execArm at h
  repeat' split at h
  all_goals cases h; exact ⟨rfl, rfl⟩

theorem abortCapture_sameStorage (s : State) : SameStorage s (abortCapture s) := by
  unfold abortCapture
  split <;> exact ⟨rfl, rfl⟩

theorem abortTransmission_sameStorage (s : State) : SameStorage s (abortTransmission s) := by
  unfold abortTransmission
  split <;> exact ⟨rfl, rfl⟩

theorem execCirq_sameStorage {s t : State} (h : execCirq s = .next t) : SameStorage s t := by
  unfold execCirq at h
  split at h <;> cases h
  exact ⟨rfl, rfl⟩

theorem execTirq_sameStorage {s t : State} (h : execTirq s = .next t) : SameStorage s t := by
  unfold execTirq at h
  split at h <;> cases h
  exact ⟨rfl, rfl⟩

theorem execRead_sameStorage {i : Word32} {s t : State} (h : execRead i s = .next t) : SameStorage s t := by
  unfold execRead at h
  repeat' split at h
  all_goals cases h; exact ⟨rfl, rfl⟩

theorem execTxstart_sameStorage {s t : State} (h : execTxstart s = .next t) : SameStorage s t := by
  unfold execTxstart at h
  repeat' split at h
  all_goals cases h; simp [SameStorage]

theorem finishUnit_sameStorage {s u : State} (h : oneUnit s = .ok u) : SameStorage s (finishUnit u) := by
  obtain ⟨bs, j, rfl⟩ := oneUnit_appends h
  unfold finishUnit
  split <;> exact ⟨rfl, rfl⟩

theorem execTxunit_sameStorage {c : Bool} {s t : State} (h : execTxunit c s = .next t) : SameStorage s t := by
  unfold execTxunit at h
  repeat' split at h
  case h_1 u hu => cases h; exact finishUnit_sameStorage hu
  all_goals cases h; exact ⟨rfl, rfl⟩

theorem exec_host_sameStorage {i : Instr} {bs : List Byte} {s t : State} (hbs : encode i = .host bs)
    (h : exec i s = .next t) : SameStorage s t := by
  rw [exec_host_sameButFrontEnd hbs h]
  exact ⟨rfl, rfl⟩

/-- Only TICK writes to a storage. -/
theorem exec_sameStorage {i : Instr} {s t : State} (hi : ∀ g, i ≠ .tick g) (h : exec i s = .next t) :
    SameStorage s t := by
  cases i with
  | cfgwr => exact execCfgwr_sameStorage h
  | arm => exact execArm_sameStorage h
  | abort => cases h; exact (abortCapture_sameStorage s).trans (abortTransmission_sameStorage _)
  | tick g => exact absurd rfl (hi g)
  | cirq => exact execCirq_sameStorage h
  | tirq => exact execTirq_sameStorage h
  | read => exact execRead_sameStorage h
  | txstart => exact execTxstart_sameStorage h
  | txunit => exact execTxunit_sameStorage h
  | illegal0 | illegalA | illegalB | illegalC | illegalD | illegalE | illegalF => cases h; exact ⟨rfl, rfl⟩
  | _ => exact exec_host_sameStorage rfl h

theorem ringStep_storageForm {s : State} (w : Sample) (hf : StorageForm s) : StorageForm (ringStep w s) := by
  unfold ringStep
  split
  · exact { hf with ring_wf := Memory.wf_write w (ringPos_lt s) hf.ring_wf }
  · exact hf

theorem postStep_storageForm {s : State} (w : Sample) (hroom : s.postEn = true → s.postCount < POST_CAP)
    (hf : StorageForm s) : StorageForm (postStep w s) := by
  unfold postStep
  split
  next hen => exact { hf with post_wf := Memory.wf_write w (hroom hen) hf.post_wf }
  · exact hf

/-- The sub-steps after the two writes do not touch the storages. -/
theorem sampleTick_storageForm {s : State} (g : Word32) (hroom : s.postEn = true → s.postCount < POST_CAP)
    (hf : StorageForm s) : StorageForm (sampleTick g s) := by
  have hwritten := postStep_storageForm (sampleWord g) (by simpa using hroom) (ringStep_storageForm (sampleWord g) hf)
  have hsame : SameStorage (postStep (sampleWord g) (ringStep (sampleWord g) s)) (sampleTick g s) := by
    simp [SameStorage, sampleTick]
  exact hsame.form hwritten

/-- TICK does not go on without a slot for the post sampler's word (20 R62; log 16). -/
theorem exec_tick_full {g : Word32} {s : State} (hcap : s.acq = .capturing) (hen : s.postEn = true)
    (hfull : POST_CAP ≤ s.postCount) : exec (.tick g) s = .fault (.noSuchPostSlot s.postCount) := by
  rw [exec, execTick, if_neg (by simp [hcap]), if_pos ⟨hen, hfull⟩]

theorem exec_tick_storageForm {g : Word32} {s t : State} (hf : StorageForm s) (h : exec (.tick g) s = .next t) :
    StorageForm t := by
  obtain rfl | ⟨hcap, rfl⟩ := execTick_next h
  · exact hf
  · refine sampleTick_storageForm g (fun hen => not_le.mp fun hfull => ?_) hf
    rw [exec_tick_full hcap hen hfull] at h
    cases h

theorem exec_storageForm {i : Instr} {s t : State} (hf : StorageForm s) (h : exec i s = .next t) : StorageForm t := by
  by_cases hi : ∃ g, i = .tick g
  · obtain ⟨g, rfl⟩ := hi
    exact exec_tick_storageForm hf h
  · exact (exec_sameStorage (not_exists.mp hi) h).form hf

/-- Settles O59: an instruction keeps the form, and without one the storages are kept, or empty after a block reset. -/
theorem stepKeepsStorageForm : Obligations.StepKeepsStorageForm := by
  intro s t hform h
  cases hf : fetch s with
  | stopped r => rw [step_of_stopped hf] at h; cases h
  | quiet s' =>
    rw [step_of_quiet hf] at h
    cases h
    obtain ⟨ts, is, rx, rfl⟩ | ⟨-, ts, rfl⟩ := fetch_quiet hf
    · exact ⟨hform.ring_wf, hform.post_wf⟩
    · exact ⟨State.reset_storage_wf.1, State.reset_storage_wf.2⟩
  | rejected e s' =>
    obtain ⟨-, ts, is, rx, rfl⟩ := fetch_rejected hf
    rw [step, hf] at h
    cases h
    exact ⟨hform.ring_wf, hform.post_wf⟩
  | run i s' =>
    obtain ⟨-, -, ts, is, rx, rfl⟩ := fetch_run hf
    rw [step_of_run hf] at h
    refine exec_storageForm ?_ h
    exact ⟨hform.ring_wf, hform.post_wf⟩

/-- Settles O29: a full post buffer leaves TICK no slot. -/
theorem tickBeyondPostBufferStops : Obligations.TickBeyondPostBufferStops :=
  fun _ _ => exec_tick_full

/-! ## READ without a value (42 R176) -/

theorem exec_read_invalid {i : Word32} {s : State} (h : s.dataValid = false) :
    exec (.read i) s = .next (refuse .readBeforeComplete s) := by simp [exec, execRead, h]

theorem exec_read_error {i : Word32} {s : State} {r : FaultReason} (hvalid : s.dataValid = true)
    (hr : logicalRead s i.toNat = .error r) : exec (.read i) s = .next (raiseFault r s) := by
  simp [exec, execRead, hvalid, hr]

/-- Settles O35: the refusal before a capture completes, then the fault of each storage. -/
theorem readWithoutValueSetsMark : Obligations.ReadWithoutValueSetsMark := by
  refine fun i s => ⟨exec_read_invalid, fun hvalid hwin hslot => ?_, fun hvalid hlow hhigh hslot => ?_⟩
  · exact exec_read_error hvalid ((logicalRead_window hwin).trans (ringRead_of_none hslot))
  · exact exec_read_error hvalid ((logicalRead_post hlow hhigh).trans (postRead_of_none hslot))

end Sys2Proof.Machine
end

section
/-! SUPPORT. The statements of spec/30_encoding.md: decoding inverts encoding and the decoder is exact (R80, R81, R83, R92),
which words are refused (R83), the command reader (48 R212), the pseudo-operations (R86), what a refused word does (R83; 60
R261) and the size commands (R96; 48 R221, R223, R224). -/

namespace Sys2Proof.Machine

/-! ## Decoding the encoding (30 R81, R92) -/

/-- An operation word decodes to the instruction it encodes. -/
theorem decodeOp_encode {i : Instr} {w : OpWord} (hi : i.wellFormed = true) (h : encode i = .op w) :
    decodeOp w = .instr i := by
  cases i with
  | cfgwr r v =>
    cases h
    exact decodeOp_cfgwr r v (by simpa [Instr.wellFormed] using hi)
  | arm | abort | cirq | tirq | txstart => cases h; rfl
  | tick | read => cases h; simp [decodeOp]
  | txunit c => cases h; cases c <;> rfl
  | illegal0 | illegalA | illegalB | illegalC | illegalD | illegalE | illegalF => cases h; simp [decodeOp]
  | _ => cases h

/-- A byte of no row of the command map is a whole command (48 R225). -/
theorem pollCommand_unlisted {b : Byte} (h : (Instr.hostOther b).wellFormed = true) :
    pollCommand [some b] = (some (.hostOther b), []) := by decide +revert

/-- The host link's bytes for a command are polled as that command, with none left over. -/
theorem pollCommand_encode {i : Instr} {bs : List Byte} (hi : i.wellFormed = true) (h : encode i = .host bs) :
    pollCommand (bs.map some) = (some i, []) := by
  cases i with
  | hostReset | hostRun | hostSendId | hostSendMetadata => cases h; exact pollCommand_bare [] rfl
  | hostTrigMask0 p | hostTrigMask1 p | hostTrigMask2 p | hostTrigMask3 p => cases h; exact pollCommand_payload p rfl
  | hostTrigValues0 p | hostTrigValues1 p | hostTrigValues2 p | hostTrigValues3 p =>
    cases h; exact pollCommand_payload p rfl
  | hostTrigConfig0 p | hostTrigConfig1 p | hostTrigConfig2 p | hostTrigConfig3 p =>
    cases h; exact pollCommand_payload p rfl
  | hostDivisor p | hostLegacySize p | hostFlags p | hostTotalSamples p | hostPreTrigger p =>
    cases h; exact pollCommand_payload p rfl
  | hostOther => cases h; exact pollCommand_unlisted hi
  | _ => cases h

/-- Settles O1: each kind of encoding is read back by its own decoder. -/
theorem decodeInvertsEncode : Obligations.DecodeInvertsEncode := by
  intro i hi
  cases he : encode i with
  | op w => simp [decode, decodeOp_encode hi he]
  | host bs => simp [decode, pollCommand_encode hi he]

/-! ## What the decoder of operation words answers (30 R83) -/

/-- An OP of the map stands beside an RSV, or a field that must be 0 for it, that is not 0. -/
def HasReservedBits (w : OpWord) : Prop :=
  1 ≤ (opField w).toNat ∧ (opField w).toNat ≤ 9 ∧ (rsvField w ≠ 0 ∨
    ((opField w).toNat ∈ [2, 3, 5, 6, 8] ∧ (aField w ≠ 0 ∨ dField w ≠ 0)) ∨
    ((opField w).toNat ∈ [4, 7] ∧ aField w ≠ 0) ∨
    ((opField w).toNat = 9 ∧ ((aField w).extractLsb' 1 7 ≠ 0 ∨ dField w ≠ 0)))

/-- A CFGWR word, its RSV clear, names no register. -/
def NamesNoRegister (w : OpWord) : Prop := (opField w).toNat = 1 ∧ rsvField w = 0 ∧ 7 ≤ (aField w).toNat

theorem NamesNoRegister.not_hasReservedBits {w : OpWord} (h : NamesNoRegister w) : ¬ HasReservedBits w := by
  obtain ⟨hop, hrsv, -⟩ := h
  simp [HasReservedBits, hop, hrsv]

/-- The decoder's three answers for `w`, each with what it says of `w`. -/
inductive Answers (w : OpWord) : Decoded → Prop
  | instr {i : Instr} (hi : i.wellFormed = true) (he : encode i = .op w) (hbits : ¬ HasReservedBits w)
      (hreg : ¬ NamesNoRegister w) : Answers w (.instr i)
  | reservedBits (h : HasReservedBits w) : Answers w (.rejected .reservedBits)
  | reservedRegister (h : NamesNoRegister w) : Answers w (.rejected .reservedRegister)

/-- A word is put together from its own OP and the 44 bits below it. -/
theorem append_belowOp_eq {w : OpWord} {o : BitVec 4} (hop : (opField w).toNat = o.toNat) : o ++ belowOp w = w := by
  rw [← BitVec.eq_of_toNat_eq hop, opField_append_belowOp]

/-- A word with RSV = 0 is put together from its own fields. -/
theorem opWord_eq {w : OpWord} {o : BitVec 4} {a : BitVec 8} {d : Word32} (hop : (opField w).toNat = o.toNat)
    (hrsv : rsvField w = 0) (ha : aField w = a) (hd : dField w = d) : opWord o a d = w := by
  rw [← BitVec.eq_of_toNat_eq hop, ← ha, ← hd, opWord_fields w hrsv]

/-- A word of an OP outside the map is the illegal instruction that keeps its other bits. -/
theorem answers_illegal {w : OpWord} {i : Instr} {o : BitVec 4} (hop : (opField w).toNat = o.toNat)
    (ho : ¬ (1 ≤ o.toNat ∧ o.toNat ≤ 9)) (hi : i.wellFormed = true) (he : encode i = .op (o ++ belowOp w)) :
    Answers w (.instr i) := by
  rw [← hop] at ho
  refine .instr hi (he.trans (congrArg _ (append_belowOp_eq hop))) ?_ ?_
  · rintro ⟨h1, h9, -⟩
    exact ho ⟨h1, h9⟩
  · rintro ⟨h1, -⟩
    omega

/-- A word of an OP other than CFGWR's is its instruction if RSV and the OP's must-be-0 fields are 0, and is refused
otherwise. -/
theorem answers_clean {w : OpWord} {ok : Bool} {i : Instr} (hop : (opField w).toNat ≠ 1)
    (hok : HasReservedBits w ↔ rsvField w ≠ 0 ∨ ok = false) (hi : i.wellFormed = true)
    (he : rsvField w = 0 → ok = true → encode i = .op w) :
    Answers w (if rsvField w = 0 ∧ ok = true then .instr i else .rejected .reservedBits) := by
  split
  next h => exact .instr hi (he h.1 h.2) (by simp [hok, h]) (fun hreg => hop hreg.1)
  next h => exact .reservedBits (hok.mpr (by simpa [or_iff_not_imp_left] using h))

/-- An OP with no operand: A and D are 0. -/
theorem answers_bare {w : OpWord} {i : Instr} {o : BitVec 4} (hop : (opField w).toNat = o.toNat)
    (ho : o.toNat ∈ [2, 3, 5, 6, 8]) (hi : i.wellFormed = true) (he : encode i = .op (opWord o 0 0)) :
    Answers w (if rsvField w = 0 ∧ (aField w == 0 && dField w == 0) = true then .instr i
      else .rejected .reservedBits) := by
  simp only [← hop, List.mem_cons, List.not_mem_nil, or_false] at ho
  refine answers_clean (by omega) ?_ hi fun hrsv hok => ?_
  · obtain h | h | h | h | h := ho <;> simp [HasReservedBits, h, imp_iff_not_or]
  · simp only [Bool.and_eq_true, beq_iff_eq] at hok
    rw [he, opWord_eq hop hrsv hok.1 hok.2]

/-- An OP with operand D: A is 0. -/
theorem answers_operand {w : OpWord} {i : Instr} {o : BitVec 4} (hop : (opField w).toNat = o.toNat)
    (ho : o.toNat ∈ [4, 7]) (hi : i.wellFormed = true) (he : encode i = .op (opWord o 0 (dField w))) :
    Answers w (if rsvField w = 0 ∧ (aField w == 0) = true then .instr i else .rejected .reservedBits) := by
  simp only [← hop, List.mem_cons, List.not_mem_nil, or_false] at ho
  refine answers_clean (by omega) ?_ hi fun hrsv hok => ?_
  · obtain h | h := ho <;> simp [HasReservedBits, h]
  · rw [he, opWord_eq hop hrsv (beq_iff_eq.mp hok) rfl]

/-- CFGWR: RSV is looked at before the register number (60 R263). -/
theorem answers_cfgwr {w : OpWord} (hop : (opField w).toNat = 1) :
    Answers w (if rsvField w ≠ 0 then .rejected .reservedBits
      else if 7 ≤ (aField w).toNat then .rejected .reservedRegister
      else .instr (.cfgwr (aField w) (dField w))) := by
  have hbits : HasReservedBits w ↔ rsvField w ≠ 0 := by simp [HasReservedBits, hop]
  split
  next h => exact .reservedBits (hbits.mpr h)
  next h =>
    rw [not_not] at h
    split
    next ha => exact .reservedRegister ⟨hop, h, ha⟩
    next ha =>
      refine .instr ?_ ?_ (by simp [hbits, h]) fun hreg => ha hreg.2.2
      · simpa [Instr.wellFormed] using ha
      · exact congrArg _ (opWord_eq hop h rfl rfl)

/-- A is 0 or 1 when its seven high bits are 0. -/
theorem eq_of_extractLsb'_eq_zero {a : BitVec 8} (h : a.extractLsb' 1 7 = 0) : a = if a.getLsbD 0 then 1 else 0 := by
  decide +revert

theorem answers_txunit {w : OpWord} (hop : (opField w).toNat = 9) :
    Answers w (if rsvField w = 0 ∧ ((aField w).extractLsb' 1 7 == 0 && dField w == 0) = true
      then .instr (.txunit ((aField w).getLsbD 0)) else .rejected .reservedBits) := by
  refine answers_clean (by simp [hop]) ?_ rfl fun hrsv hok => ?_
  · simp [HasReservedBits, hop, imp_iff_not_or]
  · simp only [Bool.and_eq_true, beq_iff_eq] at hok
    exact congrArg _ (opWord_eq hop hrsv (eq_of_extractLsb'_eq_zero hok.1) hok.2)

/-- The decoder's answer says exactly what it should of every word, OP by OP. -/
theorem answers_decodeOp (w : OpWord) : Answers w (decodeOp w) := by
  unfold decodeOp
  split
  next hop => exact answers_illegal (o := 0x0) hop (by decide) rfl rfl
  next hop => exact answers_cfgwr hop
  next hop => exact answers_bare (o := 0x2) hop (by decide) rfl rfl
  next hop => exact answers_bare (o := 0x3) hop (by decide) rfl rfl
  next hop => exact answers_operand (o := 0x4) hop (by decide) rfl rfl
  next hop => exact answers_bare (o := 0x5) hop (by decide) rfl rfl
  next hop => exact answers_bare (o := 0x6) hop (by decide) rfl rfl
  next hop => exact answers_operand (o := 0x7) hop (by decide) rfl rfl
  next hop => exact answers_bare (o := 0x8) hop (by decide) rfl rfl
  next hop => exact answers_txunit hop
  next hop => exact answers_illegal (o := 0xA) hop (by decide) rfl rfl
  next hop => exact answers_illegal (o := 0xB) hop (by decide) rfl rfl
  next hop => exact answers_illegal (o := 0xC) hop (by decide) rfl rfl
  next hop => exact answers_illegal (o := 0xD) hop (by decide) rfl rfl
  next hop => exact answers_illegal (o := 0xE) hop (by decide) rfl rfl
  next =>
    have hop : (opField w).toNat = 0xF := by
      have := (opField w).isLt
      simp only [imp_false] at *
      omega
    exact answers_illegal (o := 0xF) hop (by decide) rfl rfl

/-- Settles O2: a decoded word is put together from the fields the decoder looked at, and a word that a well-formed
instruction encodes is not rejected. -/
theorem decodeOpIsExact : Obligations.DecodeOpIsExact := by
  intro w
  split
  next i hd =>
    have ha := answers_decodeOp w
    rw [hd] at ha
    cases ha with
    | instr hi he => exact ⟨hi, he⟩
  next e hd =>
    intro i hi he
    simp [decodeOp_encode hi he] at hd

/-- Settles O3: the three answers exclude each other. -/
theorem decodeRefusalsAreReservedFields : Obligations.DecodeRefusalsAreReservedFields := by
  intro w
  change (decodeOp w = .rejected .reservedBits ↔ HasReservedBits w) ∧
    (decodeOp w = .rejected .reservedRegister ↔ NamesNoRegister w)
  have ha := answers_decodeOp w
  generalize decodeOp w = answer at ha ⊢
  cases ha with
  | instr _ _ hbits hreg => simp [hbits, hreg]
  | reservedBits h => simpa [h] using fun hreg : NamesNoRegister w => hreg.not_hasReservedBits h
  | reservedRegister h => simp [h, h.not_hasReservedBits]

/-! ## The command reader (48 R212) -/

/-- Byte `k` of a payload is the link's slot `k`. -/
theorem extractLsb'_payloadOf (rx : List (Option Byte)) (k : Fin 4) :
    (payloadOf rx).extractLsb' (8 * k.val) 8 = payloadByte rx[k.val]? := by
  unfold payloadOf
  fin_cases k
  all_goals
    apply BitVec.eq_of_getLsbD_eq
    intro i hi
    simp only [BitVec.getLsbD_append, BitVec.getLsbD_extractLsb']
    grind

/-- Settles O5: the reader's equations, the payload byte by byte. -/
theorem pollReadsLittleEndianPayload : Obligations.PollReadsLittleEndianPayload := by
  refine fun b rx => ⟨fun h => ⟨payloadOf rx, ?_, extractLsb'_payloadOf rx⟩, pollCommand_bare rx, rfl, rfl⟩
  simp [pollCommand, h]

/-- Settles O4: the decoders run on the words and bytes written out. -/
theorem specWordsDecode : Obligations.SpecWordsDecode := by
  unfold Obligations.SpecWordsDecode
  decide

/-! ## The pseudo-operations (30 R86) -/

/-- A packed descriptor gives back its fields (10 R24). -/
theorem descriptor_fields (k : MatchKind) (pin : Fin 32) :
    trigEn (descriptor k pin) = true ∧ trigKind (descriptor k pin) = k ∧ trigPin (descriptor k pin) = pin := by
  cases k <;> decide +revert

/-- A packed mode gives back its bits (10 R25). -/
theorem modeWord_bits (g0 g1 rle : Bool) : (modeWord g0 g1 rle).toNat < 8 ∧
    (modeWord g0 g1 rle).getLsbD 0 = g0 ∧ (modeWord g0 g1 rle).getLsbD 1 = g1 ∧
    (modeWord g0 g1 rle).getLsbD 2 = rle := by
  decide +revert

/-- Settles O6: the low byte of TRIG's value is the descriptor. -/
theorem pseudoOpsPackTheirFields : Obligations.PseudoOpsPackTheirFields := by
  refine ⟨fun j k pin => ⟨_, rfl, ?_, ?_⟩, fun g0 g1 rle => ⟨_, rfl, modeWord_bits g0 g1 rle⟩⟩
  · ext i hi
    simp
  · rw [← BitVec.setWidth_eq_extractLsb' (by decide), BitVec.setWidth_setWidth_of_le _ (by decide), BitVec.setWidth_eq]
    exact descriptor_fields k pin

/-! ## A refused word (30 R83; 60 R261) -/

theorem turnOfMain_rejected {w : OpWord} {e : DecodeError} (h : decodeOp w = .rejected e) :
    turnOfMain (.op w) = false := by simp [turnOfMain, h]

theorem fetchTurn_rejected {w : OpWord} {e : DecodeError} (ts : List Turn) (s : State)
    (h : decodeOp w = .rejected e) : fetchTurn (.op w) ts s = .rejected e { s with turns := ts } := by
  simp [fetchTurn, turnOfMain_rejected h, fetchWord, h]

theorem step_of_rejected {s s' : State} {e : DecodeError} (h : fetch s = .rejected e s') :
    step s = .next (refuse (decodeReason e) s') := by simp [step, h]

/-- Settles O12: a refused word waits behind no issued operation. -/
theorem rejectedWordSetsMark : Obligations.RejectedWordSetsMark := by
  intro s w ts e hf ht hd
  rw [step_of_rejected ((fetch_of_takeTurn hf ht).trans (fetchTurn_rejected ts s hd))]
  cases e <;> rfl

/-- Settles O23: the seven instructions have one meaning, `illegalWord`. -/
theorem illegalWordsSetMark : Obligations.IllegalWordsSetMark := by
  intro i x s hi
  have hexec : exec i s = illegalWord s := by
    simp only [List.mem_cons, List.not_mem_nil, or_false] at hi
    obtain rfl | rfl | rfl | rfl | rfl | rfl | rfl := hi <;> rfl
  rw [hexec]
  rfl

/-! ## The size commands (48 R221, R223, R224) -/

/-- The halves of a legacy size payload as numbers (30 R96). -/
theorem lowWord_eq (p : Word32) : lowWord p = p.toNat % 65536 := by simp [lowWord]

theorem highWord_eq (p : Word32) : highWord p = p.toNat / 65536 := by
  have hp : p.toNat / 65536 < 65536 := Nat.div_lt_of_lt_mul p.isLt
  simp [highWord, Nat.shiftRight_eq_div_pow, Nat.mod_eq_of_lt hp]

theorem exec_hostLegacySize {p : Word32} (s : State) (h : highWord p ≤ lowWord p) :
    exec (.hostLegacySize p) s = .next { s with fe := { s.fe with
      totalSamples := lowWord p * 4 + 4
      preTriggerSamples := (lowWord p * 4 + 4) - (highWord p * 4 + 4) } } := by
  rw [exec, execHostLegacySize]
  exact if_neg (by omega)

theorem exec_hostPreTrigger {p : Word32} {s : State} (h : sizeXform p.toNat ≤ s.fe.totalSamples) :
    exec (.hostPreTrigger p) s = .next { s with fe := { s.fe with
      preTriggerSamples := s.fe.totalSamples - sizeXform p.toNat } } := by
  rw [exec, execHostPreTrigger]
  exact if_neg (by omega)

/-- Settles O50: each command where it is not refused; the legacy halves are the payload's quotient and remainder. -/
theorem sizeCommandsSetCounts : Obligations.SizeCommandsSetCounts := by
  refine fun p s => ⟨fun h => ?_, rfl, exec_hostPreTrigger⟩
  rw [← lowWord_eq, ← highWord_eq] at h
  rw [exec_hostLegacySize s h, lowWord_eq, highWord_eq]
  rfl

end Sys2Proof.Machine
end

section
/-! SUPPORT. The statements of spec/40_acquisition_control.md: CFGWR (R110), ARM's checks and what it latches (R111 to R113),
ABORT (R114), the two services (R115, R116), and which operations move the controller (R117). -/

namespace Sys2Proof.Machine

open Sys2Proof.Config

/-! ## ARM (40 R111 to R113) -/

/-- ARM latches nothing exactly when no post-trigger sample remains (40 R112). -/
theorem latch_eq_none_iff {s : State} : latch s = none ↔ s.cfgTotal.toNat < min s.cfgPre.toNat RING_CAP + 1 := by
  simp [latch]

/-- The enabled descriptors, counted over the four configuration registers (10 R24). -/
theorem countP_trigEn_eq (ds : Vector Word32 4) :
    (ds.map (·.extractLsb' 0 8)).toList.countP trigEn = (List.finRange 4).countP (fun j => (ds[j]).getLsbD 7) := by
  have hlist : ds.toList = (List.finRange 4).map (fun j => ds[j]) := by
    apply List.ext_getElem <;> simp
  rw [Vector.toList_map, hlist, List.map_map, List.countP_map]
  congr 1
  funext j
  simp [trigEn]

/-- What ARM latches, clamps included (40 R112). -/
theorem latch_eq_some {s : State} (h : min s.cfgPre.toNat RING_CAP + 1 ≤ s.cfgTotal.toNat) :
    latch s = some
      { total := s.cfgTotal.toNat
        pre := min s.cfgPre.toNat RING_CAP
        post := min (s.cfgTotal.toNat - min s.cfgPre.toNat RING_CAP) POST_CAP
        trig := s.cfgTrig.map (·.extractLsb' 0 8)
        ntrig := (List.finRange 4).countP (fun j => (s.cfgTrig[j]).getLsbD 7)
        g0 := s.cfgMode.getLsbD 0
        g1 := s.cfgMode.getLsbD 1
        rle := s.cfgMode.getLsbD 2 } := by
  rw [← countP_trigEn_eq]
  exact if_neg (not_lt.mpr h)

theorem exec_arm_of_latch {s : State} {l : Latched} (hidle : s.acq = .idle) (htx : s.txActive = false)
    (hl : latch s = some l) : exec .arm s = .next (startCapture l s) := by
  simp [exec, execArm, hidle, htx, hl]

/-- The reference levels ARM leaves do not depend on the watcher (40 R113). -/
theorem startCapture_ref_getElem (l : Latched) (s : State) (j : Fin 4) : (startCapture l s).ref[j] = EDGE_REF_INIT := by
  fin_cases j <;> rfl

/-- Settles O18: ARM starts the capture with what `latch_eq_some` gives. -/
theorem armStartsCapture : Obligations.ArmStartsCapture := by
  intro s hidle htx hroom
  refine ⟨_, exec_arm_of_latch hidle htx (latch_eq_some hroom), rfl, rfl, rfl, ?_, rfl, rfl, rfl, rfl, rfl, rfl, rfl, rfl,
    rfl, ?_, rfl, startCapture_ref_getElem _ s, rfl, rfl, rfl, rfl, rfl, rfl, rfl, rfl⟩
  · simp
  · simp [← decide_not]

/-- Settles O19: each check with the ones before it passed. -/
theorem armChecksInOrder : Obligations.ArmChecksInOrder := by
  refine fun s => ⟨fun hcap => ?_, fun hidle htx => ?_, fun hidle htx hnone => ?_⟩
  · simp [exec, execArm, hcap, raiseFault]
  · simp [exec, execArm, hidle, htx, raiseFault]
  · simp [exec, execArm, hidle, htx, latch_eq_none_iff.mpr hnone, refuse]

/-! ## CIRQ and TIRQ (40 R115, R116) -/

/-- Fewer words than asked for, in a ring not yet full: the window is all of them (42 R170). -/
theorem window_of_short {written pre : Nat}
    (h : ((written % RING_CAP : Nat) : Int) - (pre : Int) < 0 ∧ written < RING_CAP) :
    window written pre = (0, written) := if_pos h

/-- Otherwise the window is as long as asked for, and starts that many slots before the next write (42 R170). -/
theorem window_of_enough {written pre : Nat}
    (h : ¬ (((written % RING_CAP : Nat) : Int) - (pre : Int) < 0 ∧ written < RING_CAP)) :
    ((window written pre).1 : Int) = (((written % RING_CAP : Nat) : Int) - (pre : Int)) % RING_CAP ∧
      (window written pre).2 = pre := by
  rw [window, if_neg h]
  exact ⟨Int.toNat_of_nonneg (Int.emod_nonneg _ (by decide)), rfl⟩

theorem exec_cirq_pending {s : State} (h : s.compPending = true) : exec .cirq s = .next (completeCapture s) := by
  simp [exec, execCirq, h]

/-- Settles O21: the window's two cases, and the other fields by the laws of `completeCapture`. -/
theorem cirqCompletesCapture : Obligations.CirqCompletesCapture := by
  refine fun s => ⟨enabledNow_cirq s, fun hcomp => ⟨_, exec_cirq_pending hcomp, ⟨fun hshort => ?_, window_of_enough⟩,
    rfl, rfl, rfl, rfl, rfl, rfl, rfl, rfl, rfl, rfl, rfl, rfl⟩⟩
  exact Prod.ext_iff.mp (window_of_short hshort)

theorem exec_tirq_pending {s : State} (h : s.trigIrqPending = true) :
    exec .tirq s = .next (emitEvents [.trigNotify] { s with trigIrqPending := false }) := by
  simp [exec, execTirq, h]

/-- Settles O22: clearing the pending bit and emitting the event is the whole of TIRQ. -/
theorem tirqServicesNotification : Obligations.TirqServicesNotification :=
  fun s => ⟨enabledNow_tirq s, exec_tirq_pending⟩

/-! ## ABORT (40 R114) -/

/-- The transmission's half of ABORT: a transmission in progress ends, and none is in progress afterwards. -/
theorem abortTransmission_eq (s : State) :
    abortTransmission s = { s with txActive := false, txNext := if s.txActive then -1 else s.txNext } := by
  cases htx : s.txActive with
  | false => rw [abortTransmission, if_neg (by simp [htx]), if_neg (by simp), ← htx]
  | true => simp [abortTransmission, htx, endTransmission]

theorem exec_abort_idle {s : State} (h : s.acq = .idle) :
    exec .abort s = .next { s with txActive := false, txNext := if s.txActive then -1 else s.txNext } := by
  have hcapture : abortCapture s = s := if_neg (by simp [h])
  rw [exec, execAbort, hcapture, abortTransmission_eq]

theorem exec_abort_capturing {s : State} (h : s.acq = .capturing) :
    exec .abort s = .next { haltUnits s with
      compPending := false, acq := .idle, txActive := false, txNext := if s.txActive then -1 else s.txNext } := by
  rw [exec, execAbort, abortTransmission_eq, abortCapture, if_pos h]
  rfl

/-- Settles O20: ABORT from each state of the controller. -/
theorem abortHaltsEverything : Obligations.AbortHaltsEverything := by
  intro s
  cases hacq : s.acq with
  | idle => exact ⟨_, exec_abort_idle hacq, hacq, rfl, nofun, fun _ => ⟨rfl, rfl, rfl, rfl, rfl, rfl⟩, rfl, rfl⟩
  | capturing =>
    exact ⟨_, exec_abort_capturing hacq, rfl, rfl, fun _ => ⟨rfl, rfl, rfl, rfl, rfl, rfl⟩, nofun, rfl, rfl⟩

/-! ## CFGWR (40 R110) -/

/-- CFG_TOTAL, CFG_PRE, the descriptors from register 2 on, CFG_MODE (10 R22). -/
theorem cfgwr_register_cases {r : BitVec 8} (h : r.toNat < 7) :
    r = 0 ∨ r = 1 ∨ (∃ j : Fin 4, r = BitVec.ofNat 8 (2 + j.val)) ∨ r = 6 := by
  decide +revert

/-- The number of a descriptor register, and that it is no other register's. -/
theorem cfgwr_trig_register (j : Fin 4) :
    (BitVec.ofNat 8 (2 + j.val)).toNat = 2 + j.val ∧ BitVec.ofNat 8 (2 + j.val) ≠ 0 ∧
    BitVec.ofNat 8 (2 + j.val) ≠ 1 ∧ BitVec.ofNat 8 (2 + j.val) ≠ 6 := by
  decide +revert

theorem exec_cfgwr_trig (j : Fin 4) (v : Word32) (s : State) :
    exec (.cfgwr (BitVec.ofNat 8 (2 + j.val)) v) s =
      .next { s with cfgTrig := s.cfgTrig.set j ((v.extractLsb' 0 8).setWidth 32) } := by
  fin_cases j <;> rfl

/-- Keeping the low `n` bits is masking with `2 ^ n - 1`. -/
theorem setWidth_extractLsb'_zero (v : Word32) (n : Nat) :
    (v.extractLsb' 0 n).setWidth 32 = v &&& BitVec.ofNat 32 (2 ^ n - 1) := by
  ext i hi
  have hmask : (BitVec.ofNat 32 (2 ^ n - 1))[i] = decide (i < n) := by
    rw [← BitVec.getLsbD_eq_getElem, BitVec.getLsbD_ofNat, Nat.testBit_two_pow_sub_one]
    simp [hi]
  simp [hmask, hi, Bool.and_comm]

/-- Settles O17: each register in turn, the four descriptors together. -/
theorem cfgwrWritesItsRegister : Obligations.CfgwrWritesItsRegister := by
  intro r v s hr
  obtain rfl | rfl | ⟨j, rfl⟩ | rfl := cfgwr_register_cases hr
  · exact ⟨_, rfl, rfl, rfl, fun k => (if_neg (by decide +revert)).symm, rfl, rfl⟩
  · exact ⟨_, rfl, rfl, rfl, fun k => (if_neg (by decide +revert)).symm, rfl, rfl⟩
  · obtain ⟨hj, h0, h1, h6⟩ := cfgwr_trig_register j
    refine ⟨_, exec_cfgwr_trig j v s, (if_neg h0).symm, (if_neg h1).symm, fun k => ?_, (if_neg h6).symm, rfl⟩
    simp [hj, Vector.getElem_set, setWidth_extractLsb'_zero]
  · refine ⟨_, rfl, rfl, rfl, fun k => (if_neg (by decide +revert)).symm, ?_, rfl⟩
    simp [setWidth_extractLsb'_zero]

/-! ## The moves of the controller (40 R117) -/

theorem execCfgwr_acq {r : BitVec 8} {v : Word32} {s t : State} (h : execCfgwr r v s = .next t) : t.acq = s.acq := by
  unfold execCfgwr at h
  split at h <;> cases h <;> rfl

theorem execTick_acq {g : Word32} {s t : State} (h : execTick g s = .next t) : t.acq = s.acq := by
  obtain rfl | ⟨-, rfl⟩ := execTick_next h <;> simp

theorem execTirq_acq {s t : State} (h : execTirq s = .next t) : t.acq = s.acq := by
  unfold execTirq at h
  split at h <;> cases h
  rfl

theorem execRead_acq {i : Word32} {s t : State} (h : execRead i s = .next t) : t.acq = s.acq := by
  unfold execRead at h
  repeat' split at h
  all_goals cases h; rfl

theorem execTxstart_acq {s t : State} (h : execTxstart s = .next t) : t.acq = s.acq := by
  unfold execTxstart at h
  repeat' split at h
  all_goals cases h; simp

theorem finishUnit_acq {s u : State} (h : oneUnit s = .ok u) : (finishUnit u).acq = s.acq := by
  obtain ⟨bs, j, rfl⟩ := oneUnit_appends h
  unfold finishUnit
  split <;> rfl

theorem execTxunit_acq {c : Bool} {s t : State} (h : execTxunit c s = .next t) : t.acq = s.acq := by
  unfold execTxunit at h
  repeat' split at h
  case h_1 u hu => cases h; exact finishUnit_acq hu
  all_goals cases h; rfl

theorem exec_host_acq {i : Instr} {bs : List Byte} {s t : State} (hbs : encode i = .host bs)
    (h : exec i s = .next t) : t.acq = s.acq := by
  rw [exec_host_sameButFrontEnd hbs h]

/-- Every other operation leaves the controller where it is. -/
theorem exec_acq {i : Instr} {s t : State} (h : exec i s = .next t) (harm : i ≠ .arm) (habort : i ≠ .abort)
    (hcirq : i ≠ .cirq) : t.acq = s.acq := by
  cases i with
  | cfgwr => exact execCfgwr_acq h
  | arm => exact absurd rfl harm
  | abort => exact absurd rfl habort
  | tick => exact execTick_acq h
  | cirq => exact absurd rfl hcirq
  | tirq => exact execTirq_acq h
  | read => exact execRead_acq h
  | txstart => exact execTxstart_acq h
  | txunit => exact execTxunit_acq h
  | illegal0 | illegalA | illegalB | illegalC | illegalD | illegalE | illegalF => cases h; rfl
  | _ => exact exec_host_acq rfl h

theorem eq_capturing_of_ne_idle {a : Acq} (h : a ≠ .idle) : a = .capturing := by
  cases a with
  | idle => exact absurd rfl h
  | capturing => rfl

theorem exec_arm_acq {s t : State} (h : exec .arm s = .next t) (hmoved : t.acq ≠ s.acq) :
    s.acq = .idle ∧ t.acq = .capturing := by
  cases hacq : s.acq with
  | idle => exact ⟨rfl, eq_capturing_of_ne_idle (hacq ▸ hmoved)⟩
  | capturing =>
    obtain ⟨hfault, -, -⟩ := armChecksInOrder s
    cases (hfault hacq).symm.trans h
    exact absurd rfl hmoved

theorem exec_abort_acq {s t : State} (h : exec .abort s = .next t) : t.acq = .idle := by
  obtain ⟨u, hu, hidle, -⟩ := abortHaltsEverything s
  cases hu.symm.trans h
  exact hidle

theorem exec_cirq_acq {s t : State} (h : exec .cirq s = .next t) : t.acq = .idle := by
  cases hcomp : s.compPending with
  | false => cases (exec_cirq_waiting hcomp).symm.trans h
  | true => cases (exec_cirq_pending hcomp).symm.trans h; rfl

/-- Settles O24: CIRQ and ABORT leave the controller Idle, so they move it from Capturing only. -/
theorem onlyArmCirqAbortMoveController : Obligations.OnlyArmCirqAbortMoveController := by
  intro i s t h hmoved
  have hfrom (hidle : t.acq = .idle) : s.acq = .capturing := eq_capturing_of_ne_idle (hidle ▸ hmoved.symm)
  cases i with
  | arm => exact .inl ⟨rfl, exec_arm_acq h hmoved⟩
  | abort =>
    have hidle := exec_abort_acq h
    exact .inr ⟨.inr rfl, hfrom hidle, hidle⟩
  | cirq =>
    have hidle := exec_cirq_acq h
    exact .inr ⟨.inl rfl, hfrom hidle, hidle⟩
  | _ => exact absurd (exec_acq h nofun nofun nofun) hmoved

end Sys2Proof.Machine
end

section
/-! SUPPORT. The statements of spec/41_sampling_trigger.md: what one TICK records (R141 to R143), when the watchers fire
(R144, R145), how long the handoff takes (R146), the post buffer's phase (R149) and a TICK while Idle (R147); and of
spec/42_readout_transport.md R173: what the window over the ring holds. -/

namespace Sys2Proof.Machine

open Sys2Proof.Config

/-! ## A TICK's storage side (41 R142, R143) -/

/-- The state after a TICK's two storage writes, in which the countdown and the watchers find the block. -/
def recordStep (g : Word32) (s : State) : State := postStep (sampleWord g) (ringStep (sampleWord g) s)

@[simp] theorem recordStep_lat (g : Word32) (s : State) : (recordStep g s).lat = s.lat := by simp [recordStep]
@[simp] theorem recordStep_acq (g : Word32) (s : State) : (recordStep g s).acq = s.acq := by simp [recordStep]
@[simp] theorem recordStep_ringEn (g : Word32) (s : State) : (recordStep g s).ringEn = s.ringEn := by simp [recordStep]
@[simp] theorem recordStep_muxEn (g : Word32) (s : State) : (recordStep g s).muxEn = s.muxEn := by simp [recordStep]
@[simp] theorem recordStep_watchEn (g : Word32) (s : State) : (recordStep g s).watchEn = s.watchEn := by
  simp [recordStep]
@[simp] theorem recordStep_handoff (g : Word32) (s : State) : (recordStep g s).handoff = s.handoff := by
  simp [recordStep]
@[simp] theorem recordStep_ref (g : Word32) (s : State) : (recordStep g s).ref = s.ref := by simp [recordStep]
@[simp] theorem recordStep_trigIrqPending (g : Word32) (s : State) :
    (recordStep g s).trigIrqPending = s.trigIrqPending := by simp [recordStep]

theorem ringStep_read (w : Sample) (s : State) (k : Nat) :
    (ringStep w s).ring.read k = if s.ringEn = true ∧ k = ringPos s then some w else s.ring.read k := by
  cases hen : s.ringEn with
  | false => simp [ringStep_off hen]
  | true => simp [ringStep, hen, Memory.read_write]

theorem postStep_read (w : Sample) (s : State) (k : Nat) :
    (postStep w s).post.read k = if s.postEn = true ∧ k = s.postCount then some w else s.post.read k := by
  cases hen : s.postEn with
  | false => simp [postStep_off hen]
  | true => simp [postStep, hen, Memory.read_write]

theorem ringStep_ringRemaining (w : Sample) (s : State) :
    (ringStep w s).ringRemaining = if s.ringEn then s.ringRemaining - 1 else s.ringRemaining := by
  unfold ringStep; split <;> rfl

theorem postStep_postCount (w : Sample) (s : State) :
    (postStep w s).postCount = if s.postEn then s.postCount + 1 else s.postCount := by
  unfold postStep; split <;> rfl

theorem postStep_compPending (w : Sample) (s : State) : (postStep w s).compPending =
    if s.postEn = true ∧ s.postCount + 1 = s.lat.post then true else s.compPending := by
  cases hen : s.postEn with
  | false => simp [postStep_off hen]
  | true => by_cases hfull : s.postCount + 1 = s.lat.post <;> simp [postStep, hen, hfull]

theorem postStep_postEn (w : Sample) (s : State) :
    (postStep w s).postEn = (s.postEn && decide (s.postCount + 1 ≠ s.lat.post)) := by
  cases hen : s.postEn with
  | false => simp [hen]
  | true => simp [postStep, hen]

/-- One word of the snapshot goes to the ring if its sampler runs, and no other slot changes. -/
theorem recordStep_ring_read (g : Word32) (s : State) (k : Nat) : (recordStep g s).ring.read k =
    if s.ringEn = true ∧ k = ringPos s then some (sampleWord g) else s.ring.read k := by
  simp [recordStep, ringStep_read]

theorem recordStep_ringRemaining (g : Word32) (s : State) :
    (recordStep g s).ringRemaining = if s.ringEn then s.ringRemaining - 1 else s.ringRemaining := by
  simp [recordStep, ringStep_ringRemaining]

/-- One word of the snapshot goes to the post buffer if its sampler runs, and no other slot changes. -/
theorem recordStep_post_read (g : Word32) (s : State) (k : Nat) : (recordStep g s).post.read k =
    if s.postEn = true ∧ k = s.postCount then some (sampleWord g) else s.post.read k := by
  simp [recordStep, postStep_read]

theorem recordStep_postCount (g : Word32) (s : State) :
    (recordStep g s).postCount = if s.postEn then s.postCount + 1 else s.postCount := by
  simp [recordStep, postStep_postCount]

theorem recordStep_compPending (g : Word32) (s : State) : (recordStep g s).compPending =
    if s.postEn = true ∧ s.postCount + 1 = s.lat.post then true else s.compPending := by
  simp [recordStep, postStep_compPending]

theorem recordStep_postEn (g : Word32) (s : State) :
    (recordStep g s).postEn = (s.postEn && decide (s.postCount + 1 ≠ s.lat.post)) := by
  simp [recordStep, postStep_postEn]

/-- What the sub-steps after the two writes leave as the writes left it. -/
theorem sampleTick_recorded (g : Word32) (s : State) :
    (sampleTick g s).ring = (recordStep g s).ring ∧ (sampleTick g s).post = (recordStep g s).post ∧
    (sampleTick g s).ringRemaining = (recordStep g s).ringRemaining ∧
    (sampleTick g s).postCount = (recordStep g s).postCount ∧
    (sampleTick g s).compPending = (recordStep g s).compPending := by
  simp [sampleTick, recordStep]

/-! ## What a TICK leaves unchanged (41 R141) -/

/-- `t` differs from `s` in the fields of the sampling units only. -/
def SameButSampling (s t : State) : Prop :=
  t = { s with
    ring := t.ring, post := t.post, ringRemaining := t.ringRemaining, postCount := t.postCount
    compPending := t.compPending, ringEn := t.ringEn, postEn := t.postEn, muxEn := t.muxEn
    watchEn := t.watchEn, handoff := t.handoff, ref := t.ref, trigIrqPending := t.trigIrqPending }

theorem SameButSampling.trans {s t u : State} (hst : SameButSampling s t) (htu : SameButSampling t u) :
    SameButSampling s u := by
  unfold SameButSampling at hst htu
  rw [hst] at htu
  exact htu

theorem ringStep_sameButSampling (w : Sample) (s : State) : SameButSampling s (ringStep w s) := by
  unfold ringStep; split <;> rfl

theorem postStep_sameButSampling (w : Sample) (s : State) : SameButSampling s (postStep w s) := by
  unfold postStep; split <;> rfl

theorem countdownStep_sameButSampling (s : State) : SameButSampling s (countdownStep s) := by
  unfold countdownStep; split <;> rfl

theorem triggerStep_sameButSampling (g : Word32) (s : State) : SameButSampling s (triggerStep g s) := by
  unfold triggerStep; split <;> [split <;> rfl; rfl]

theorem handoffStep_sameButSampling (s : State) : SameButSampling s (handoffStep s) := by
  unfold handoffStep; split <;> rfl

theorem sampleTick_sameButSampling (g : Word32) (s : State) : SameButSampling s (sampleTick g s) :=
  ((((ringStep_sameButSampling _ _).trans (postStep_sameButSampling _ _)).trans
    (countdownStep_sameButSampling _)).trans (triggerStep_sameButSampling _ _)).trans (handoffStep_sameButSampling _)

/-- Settles O25: TICK's first test. -/
theorem tickWhileIdleChangesNothing : Obligations.TickWhileIdleChangesNothing :=
  fun _ _ hidle => if_pos hidle

/-- Settles O26: the writes' laws on each storage, as the later sub-steps touch neither. -/
theorem tickRecordsOneWord : Obligations.TickRecordsOneWord := by
  intro g s hcap hroom
  obtain ⟨hring, hpost, hremaining, hcount, hcomp⟩ := sampleTick_recorded g s
  refine ⟨_, exec_tick hcap hroom, ⟨fun k => ?_, fun k => ?_⟩, ?_, ?_, ?_, sampleTick_sameButSampling g s⟩
  · exact hring ▸ recordStep_ring_read g s k
  · exact hpost ▸ recordStep_post_read g s k
  · exact hremaining.trans (recordStep_ringRemaining g s)
  · exact hcount.trans (recordStep_postCount g s)
  · exact hcomp.trans (recordStep_compPending g s)

/-! ## A TICK's control side, case by case (41 R141, R145, R146) -/

/-- Whether any enabled watcher is satisfied is what the multiplexer's OR says (41 R145). -/
theorem anyFires_iff (g : Word32) (s : State) : anyFires g s = true ↔ ∃ j, satisfied g s j := by
  have hfires : ∀ j, satisfied g s j ↔ watcherFires g s.lat.trig[j] s.ref[j] = true :=
    fun j => (watcherFires_iff g _ _).symm
  simp [hfires, anyFires, Fin.exists_fin_succ, or_assoc]

/-- The watchers see only what the storage writes leave alone. -/
theorem anyFires_recordStep (g : Word32) (s : State) : anyFires g (recordStep g s) = anyFires g s := by
  simp [anyFires]

theorem nextRefs_recordStep (g : Word32) (s : State) : nextRefs g (recordStep g s) = nextRefs g s := by
  simp [nextRefs]

/-- The state with `n` ticks of the handoff to go (41 R141). -/
def awaitHandoff (n : Nat) (s : State) : State := { s with handoff := some n }

/-- The state once the watchers have looked at a snapshot (41 R145). -/
def watched (g : Word32) (s : State) : State := { recordStep g s with ref := nextRefs g s }

/-- The state once the multiplexer has signalled: the handoff waits for `HANDOFF_DELAY` ticks (41 R145). -/
def fired (g : Word32) (s : State) : State :=
  awaitHandoff HANDOFF_DELAY { watched g s with trigIrqPending := true }

/-- The state once the ring has handed over to the post buffer (41 R146). -/
def handedOver (s : State) : State :=
  { s with ringEn := false, postEn := true, muxEn := false, watchEn := false, handoff := none }

theorem handoffStep_zero {s : State} (h : s.handoff = some 0) : handoffStep s = handedOver s := if_pos h

/-- With no handoff under way the snapshot goes from the storages straight to the watchers. -/
theorem sampleTick_of_no_handoff {g : Word32} {s : State} (hnone : s.handoff = none) :
    sampleTick g s = handoffStep (triggerStep g (recordStep g s)) := by
  rw [sampleTick, ← recordStep, countdownStep_none (by simpa using hnone)]

theorem countdownStep_handoff_eq_none {s : State} : (countdownStep s).handoff = none ↔ s.handoff = none := by
  unfold countdownStep
  split <;> simp [*]

/-- With no watcher evaluated, a TICK is the storage writes and the countdown. -/
theorem sampleTick_of_off {g : Word32} {s : State}
    (hoff : s.watchEn = false ∨ s.muxEn = false ∨ s.handoff ≠ none) :
    sampleTick g s = handoffStep (countdownStep (recordStep g s)) := by
  rw [sampleTick, ← recordStep, triggerStep_off (by simpa [countdownStep_handoff_eq_none] using hoff)]

theorem sampleTick_of_unwatched {g : Word32} {s : State} (hoff : s.watchEn = false ∨ s.muxEn = false)
    (hnone : s.handoff = none) : sampleTick g s = recordStep g s := by
  rw [sampleTick_of_off (or_assoc.mp (.inl hoff)), countdownStep_none (by simpa using hnone),
    handoffStep_off (by simp [hnone])]

theorem countdownStep_succ {s : State} {n : Nat} (h : s.handoff = some (n + 1)) :
    countdownStep s = awaitHandoff n s := by
  simp [countdownStep, awaitHandoff, h]

theorem sampleTick_of_counting {g : Word32} {s : State} {n : Nat} (h : s.handoff = some (n + 2)) :
    sampleTick g s = awaitHandoff (n + 1) (recordStep g s) := by
  rw [sampleTick_of_off (by simp [h]), countdownStep_succ (by simpa using h), handoffStep_off (by simp [awaitHandoff])]

theorem sampleTick_of_expiring {g : Word32} {s : State} (h : s.handoff = some 1 ∨ s.handoff = some 0) :
    sampleTick g s = handedOver (recordStep g s) := by
  rw [sampleTick_of_off (by rcases h with h | h <;> simp [h])]
  rcases h with hone | hzero
  · rw [countdownStep_succ (by simpa using hone), handoffStep_zero rfl]
    rfl
  · have hcount : countdownStep (recordStep g s) = recordStep g s := by simp [countdownStep, hzero]
    rw [hcount, handoffStep_zero (by simpa using hzero)]

theorem triggerStep_of_watching {g : Word32} {s : State} (hwatch : s.watchEn = true) (hmux : s.muxEn = true)
    (hnone : s.handoff = none) :
    triggerStep g (recordStep g s) = if anyFires g s then fired g s else watched g s := by
  rw [triggerStep, if_pos (by simp [hwatch, hmux, hnone]), anyFires_recordStep, nextRefs_recordStep]
  rfl

/-- Settles O27: the multiplexer's OR fires or not, and the handoff it starts takes effect at once or later. -/
theorem tickFiresOnAnyWatcher : Obligations.TickFiresOnAnyWatcher := by
  intro g s hcap hroom hwatch hmux hnone
  refine ⟨_, exec_tick hcap hroom, ?_⟩
  rw [sampleTick_of_no_handoff hnone, triggerStep_of_watching hwatch hmux hnone]
  refine ⟨fun j => ?_, fun hquiet => ?_, fun hsome => ?_⟩
  · have href : (if anyFires g s then fired g s else watched g s).ref = nextRefs g s := by split <;> rfl
    rw [handoffStep_ref, href, nextRefs_get]
  · rw [if_neg (by simpa [anyFires_iff] using hquiet), handoffStep_off (by simp [watched, hnone])]
    simp [watched, hwatch, hmux, hnone]
  · rw [if_pos ((anyFires_iff g s).mpr hsome)]
    refine ⟨handoffStep_trigIrqPending _, fun hlater => ?_, fun hnow => ?_⟩
    · rw [handoffStep_off (by simp [fired, awaitHandoff, hlater.ne'])]
      simp [fired, awaitHandoff, watched, hwatch, hmux]
    · rw [handoffStep_zero (by simp [fired, awaitHandoff, hnow])]
      exact ⟨rfl, rfl, rfl, rfl, rfl⟩

/-- Settles O28: one equation of TICK per state of the countdown. -/
theorem tickWithoutWatchersCountsDown : Obligations.TickWithoutWatchersCountsDown := by
  intro g s hcap hroom hoff
  refine ⟨_, exec_tick hcap hroom, ?_, ?_, fun hnone => ?_, fun n hn => ?_, fun hlast => ?_⟩
  · simp [sampleTick_of_off hoff]
  · simp [sampleTick_of_off hoff]
  · rw [sampleTick_of_unwatched (by simpa [hnone] using hoff) hnone]
    simp [hnone]
  · simp [sampleTick_of_counting hn, awaitHandoff]
  · rw [sampleTick_of_expiring hlast]
    exact ⟨rfl, rfl, rfl, rfl, rfl⟩

/-! ## Runs of TICKs (41 R146, R149) -/

theorem runTicks_cons {g : Word32} {s : State} (gs : List Word32) (hcap : s.acq = .capturing)
    (hroom : s.postEn = true → s.postCount < 100000) : runTicks (g :: gs) s = runTicks gs (sampleTick g s) := by
  rw [runTicks, exec_tick hcap hroom]

theorem recordStep_post_off {g : Word32} {s : State} (h : s.postEn = false) :
    recordStep g s = ringStep (sampleWord g) s := postStep_off (by simpa using h)

theorem sub_one_sub_ofNat (r : Word32) (n : Nat) : r - 1 - BitVec.ofNat 32 n = r - BitVec.ofNat 32 (n + 1) := by
  rw [sub_sub, add_comm, BitVec.ofNat_add n 1]; rfl

/-- Settles O30, by induction on the TICKs: the last one hands over, each before it counts one down. -/
theorem handoffTakesItsDelay : Obligations.HandoffTakesItsDelay := by
  intro gs
  induction gs with
  | nil => exact fun _ _ _ _ _ hne => absurd rfl hne
  | cons g gs ih =>
    intro s hcap hring hpost hhandoff _
    have hremaining : (recordStep g s).ringRemaining = s.ringRemaining - 1 := by
      simp [recordStep_ringRemaining, hring]
    have hsame : (recordStep g s).post = s.post ∧ (recordStep g s).postCount = s.postCount := by
      simp [recordStep_post_off hpost]
    rw [runTicks_cons gs hcap (by simp [hpost])]
    cases gs with
    | nil =>
      rw [sampleTick_of_expiring (.inl hhandoff)]
      exact ⟨_, rfl, hremaining, rfl, rfl, rfl, rfl, rfl, hsame⟩
    | cons g' gs' =>
      rw [sampleTick_of_counting hhandoff]
      obtain ⟨t, hrun, hmoved, hring', hpost', hmux, hwatch, hnone, hkept, hcount⟩ :=
        ih (awaitHandoff (gs'.length + 1) (recordStep g s)) (by simpa [awaitHandoff] using hcap)
          (by simpa [awaitHandoff] using hring) (by simp [awaitHandoff, recordStep_postEn, hpost]) rfl
          (List.cons_ne_nil _ _)
      refine ⟨t, hrun, ?_, hring', hpost', hmux, hwatch, hnone, hkept.trans hsame.1, hcount.trans hsame.2⟩
      exact hmoved.trans (hremaining ▸ sub_one_sub_ofNat _ _)

/-- The post buffer's phase of a capture: the ring has handed over, and the post sampler runs, with no completion raised,
until the L_POST-th word is there (41 R143, R149). -/
structure PostPhase (s : State) : Prop where
  capturing : s.acq = .capturing
  mux_off : s.muxEn = false
  handed_over : s.handoff = none
  post_le : s.lat.post ≤ 100000
  count_le : s.postCount ≤ s.lat.post
  postEn_eq : s.postEn = decide (s.postCount < s.lat.post)
  comp_eq : s.compPending = decide (s.postCount = s.lat.post)

theorem PostPhase.sampleTick_eq {s : State} (hs : PostPhase s) (g : Word32) : sampleTick g s = recordStep g s :=
  sampleTick_of_unwatched (.inr hs.mux_off) hs.handed_over

theorem PostPhase.after_record {s : State} (hs : PostPhase s) (g : Word32) (hroom : s.postCount < s.lat.post) :
    PostPhase (recordStep g s) := by
  have hen : s.postEn = true := by simpa [hs.postEn_eq] using hroom
  have hcomp : s.compPending = false := by simpa [hs.comp_eq] using hroom.ne
  have hcount : (recordStep g s).postCount = s.postCount + 1 := by simp [recordStep_postCount, hen]
  constructor
  · simpa using hs.capturing
  · simpa using hs.mux_off
  · simpa using hs.handed_over
  · simpa using hs.post_le
  · simpa [hcount] using hroom
  · rw [recordStep_postEn, hcount, recordStep_lat, hen, Bool.true_and, decide_eq_decide]
    omega
  · simp [recordStep_compPending, hcount, hen, hcomp]

/-- TICKs of the post buffer's phase: their words stand in the slots from the fill count on, and the phase goes on. -/
theorem runTicks_postPhase {gs : List Word32} {s : State} (hs : PostPhase s)
    (hroom : s.postCount + gs.length ≤ s.lat.post) :
    ∃ t, runTicks gs s = .next t ∧ PostPhase t ∧ t.lat = s.lat ∧ t.postCount = s.postCount + gs.length ∧
      (∀ i : Fin gs.length, t.post.read (s.postCount + i) = some (sampleWord gs[i])) ∧
      (∀ k < s.postCount, t.post.read k = s.post.read k) := by
  induction gs generalizing s with
  | nil => exact ⟨s, rfl, hs, rfl, rfl, nofun, fun _ _ => rfl⟩
  | cons g gs ih =>
    rw [List.length_cons] at hroom
    have hnotfull : s.postCount < s.lat.post := by omega
    have hen : s.postEn = true := by simpa [hs.postEn_eq] using hnotfull
    have hcount : (recordStep g s).postCount = s.postCount + 1 := by simp [recordStep_postCount, hen]
    obtain ⟨t, hrun, ht, hlat, htcount, hwords, hbelow⟩ :=
      ih (hs.after_record g hnotfull) (by rw [hcount, recordStep_lat]; omega)
    rw [hcount] at htcount hwords hbelow
    rw [runTicks_cons gs hs.capturing fun _ => hnotfull.trans_le hs.post_le, hs.sampleTick_eq]
    refine ⟨t, hrun, ht, by simpa using hlat, by rw [htcount, List.length_cons]; omega, fun i => ?_, fun k hk => ?_⟩
    · cases i using Fin.cases with
      | zero =>
        refine (hbelow _ (Nat.lt_succ_self _)).trans ?_
        simp [recordStep_post_read, hen]
      | succ i =>
        have hi := hwords i
        rw [Nat.add_right_comm] at hi
        exact hi
    · rw [hbelow k (by omega), recordStep_post_read, if_neg (by omega)]

/-- Settles O31: the state given is in the post buffer's phase. -/
theorem postBufferRecordsConsecutiveTicks : Obligations.PostBufferRecordsConsecutiveTicks := by
  intro gs s hcap hen hcomp hmux hnone hle hroom hnotfull
  have hs : PostPhase s :=
    ⟨hcap, hmux, hnone, hle, hnotfull.le, by simp [hen, hnotfull], by simp [hcomp, hnotfull.ne]⟩
  obtain ⟨t, hrun, ht, hlat, hcount, hwords, hbelow⟩ := runTicks_postPhase hs hroom
  refine ⟨t, hrun, hcount, hwords, hbelow, ?_, ?_⟩
  · rw [ht.comp_eq, hcount, hlat]
  · rw [ht.postEn_eq, hcount, hlat]

/-! ## The window over the ring (42 R170, R171, R173) -/

theorem recordWords_append_singleton (ws : List Sample) (w : Sample) (s : State) :
    recordWords (ws ++ [w]) s = ringStep w (recordWords ws s) := by
  induction ws generalizing s with
  | nil => rfl
  | cons v ws ih => exact ih (ringStep v s)

theorem recordWords_ringEn (ws : List Sample) (s : State) : (recordWords ws s).ringEn = s.ringEn := by
  induction ws generalizing s with
  | nil => rfl
  | cons v ws ih => rw [recordWords, ih, ringStep_ringEn]

/-- The counter counts the words written since ARM as long as it has not wrapped (10 R33). -/
theorem writtenSinceArm_recordWords {ws : List Sample} {s : State} (hen : s.ringEn = true)
    (hstart : s.ringRemaining = INITIAL_COUNT) (hlen : ws.length < 2 ^ 32) :
    writtenSinceArm (recordWords ws s) = ws.length := by
  induction ws using List.reverseRecOn with
  | nil => simp [recordWords, writtenSinceArm, hstart]
  | append_singleton ws w ih =>
    rw [List.length_append, List.length_singleton] at hlen ⊢
    rw [recordWords_append_singleton, writtenSinceArm_ringStep (by rwa [recordWords_ringEn]), ih (by omega),
      Nat.mod_eq_of_lt hlen]

/-- Each of the last 1024 words stands in the slot its number since ARM says: only a word 1024 later overwrites it. -/
theorem recordWords_read {ws : List Sample} {s : State} (hen : s.ringEn = true)
    (hstart : s.ringRemaining = INITIAL_COUNT) (hlen : ws.length < 2 ^ 32) {j : Nat} (hj : j < ws.length)
    (hrecent : ws.length ≤ j + 1024) : (recordWords ws s).ring.read (j % 1024) = ws[j]? := by
  induction ws using List.reverseRecOn with
  | nil => exact absurd hj (Nat.not_lt_zero j)
  | append_singleton ws w ih =>
    rw [List.length_append, List.length_singleton] at hj hrecent hlen
    have hpos : ringPos (recordWords ws s) = ws.length % 1024 := by
      rw [ringPos, writtenSinceArm_recordWords hen hstart (by omega)]
    rw [recordWords_append_singleton, ringStep_read, recordWords_ringEn, hpos]
    by_cases hlast : j = ws.length
    · simp [hlast, hen]
    · rw [if_neg (by omega), ih (by omega) (by omega) (by omega), List.getElem?_append_left (by omega)]

/-- Both cases of the window at once: it is as long as asked for and as there are words, and ends at the next write. -/
theorem window_eq {written pre : Nat} (hpre : pre ≤ 1024) :
    window written pre = ((written - min written pre) % 1024, min written pre) := by
  by_cases hshort : ((written % RING_CAP : Nat) : Int) - (pre : Int) < 0 ∧ written < RING_CAP
  · rw [window_of_short hshort]
    have hall : written ≤ pre := by unfold RING_CAP at hshort; omega
    simp [min_eq_left hall]
  · obtain ⟨hfirst, havail⟩ := window_of_enough hshort
    have hmin : pre ≤ written := by unfold RING_CAP at hshort; omega
    rw [min_eq_right hmin]
    refine Prod.ext ?_ havail
    unfold RING_CAP at hfirst
    show (window written pre).1 = (written - pre) % 1024
    omega

/-- Settles O33: the window's slots are those of the newest words' numbers since ARM. -/
theorem windowHoldsNewestWords : Obligations.WindowHoldsNewestWords := by
  intro ws s pre hen hstart hlen hpre
  dsimp only
  rw [writtenSinceArm_recordWords hen hstart hlen, window_eq hpre]
  refine ⟨Nat.mod_lt _ (by decide), rfl, fun i hi => ?_⟩
  dsimp only at hi ⊢
  rw [Nat.mod_add_mod]
  exact recordWords_read hen hstart hlen (by omega) (by omega)

end Sys2Proof.Machine
end

section
/-! SUPPORT. The statements of spec/42_readout_transport.md: READ of a completed capture (R172, R176), TXSTART (R178), one
TXUNIT of each kind (R179 to R183), and whole transmissions, raw and run-length encoded, with the reference decoder (R184,
R185). -/

namespace Sys2Proof.Machine

open Sys2Proof.Config

/-! ## READ with a value (42 R176) -/

theorem exec_read_ok {i : Word32} {s : State} {v : Sample} (hvalid : s.dataValid = true)
    (hr : logicalRead s i.toNat = .ok v) : exec (.read i) s = .next { s with readResult := some v } := by
  simp [exec, execRead, hvalid, hr]

/-- Settles O34, range by range of the logical read. -/
theorem readReturnsLogicalSample : Obligations.ReadReturnsLogicalSample := by
  intro i s v hvalid hslot
  refine exec_read_ok hvalid ?_
  split at hslot
  next hwin => exact (logicalRead_window hwin).trans (ringRead_of_some hslot)
  next hwin =>
    split at hslot
    next hpost => exact (logicalRead_post (not_lt.mp hwin) hpost).trans (postRead_of_some hslot)
    next hpost => exact hslot ▸ logicalRead_outside (.inr (by omega))

/-! ## TXSTART (42 R178) -/

theorem startTransmission_eq (s : State) : startTransmission s = { s with
    samplesReady := false
    txActive := true
    txNext := (s.lat.total : Int) - 1
    events := s.events ++ (if s.underrun then [.diagUnderrun s.lat.pre s.winAvail] else []) } := by
  unfold startTransmission
  split <;> simp [emitEvents, *]

/-- Settles O36: nothing refuses, and the transmission starts. -/
theorem txstartBeginsTransmission : Obligations.TxstartBeginsTransmission := by
  intro s hready hgroups
  rw [← groupCount_eq_zero] at hgroups
  rw [← startTransmission_eq, exec, execTxstart, if_pos hready, if_neg hgroups]

/-- Settles O37: the check for a capture to send, then the check of RLE's groups. -/
theorem txstartChecksInOrder : Obligations.TxstartChecksInOrder := by
  refine fun s => ⟨fun hready => ?_, fun hready hrle hg0 hg1 => ?_⟩
  · rw [exec, execTxstart, if_neg (by simp [hready])]
    rfl
  · rw [exec, execTxstart, if_pos hready, if_pos ⟨hrle, (groupCount_eq_zero _).mpr ⟨hg0, hg1⟩⟩]
    rfl

/-! ## One unit (42 R179, R180) -/

/-- Settles O40: TXUNIT during a transmission with the cancel input set, and TXUNIT outside a transmission. -/
theorem txunitCancelAndRefusal : Obligations.TxunitCancelAndRefusal := by
  refine fun s => ⟨fun htx => ?_, fun c htx => ?_⟩
  · simp [exec, execTxunit, htx, endTransmission]
  · simp [exec, execTxunit, htx, refuse]

/-- The state once a unit has sent `bs` and left the cursor at `j`: the transmission ends below the lower bound. -/
def unitSent (bs : List Byte) (j : Int) (s : State) : State :=
  { s with txOut := s.txOut ++ bs, txNext := j, txActive := decide (0 ≤ j) }

@[simp] theorem unitSent_lat (bs : List Byte) (j : Int) (s : State) : (unitSent bs j s).lat = s.lat := rfl
@[simp] theorem unitSent_txOut (bs : List Byte) (j : Int) (s : State) :
    (unitSent bs j s).txOut = s.txOut ++ bs := rfl
@[simp] theorem unitSent_txNext (bs : List Byte) (j : Int) (s : State) : (unitSent bs j s).txNext = j := rfl
@[simp] theorem logicalRead_unitSent (bs : List Byte) (j : Int) (s : State) (i : Int) :
    logicalRead (unitSent bs j s) i = logicalRead s i := rfl

/-- TXUNIT 0 of a unit that sends `bs` and leaves the cursor at `j`. -/
theorem exec_txunit_sends {s : State} {bs : List Byte} {j : Int} (htx : s.txActive = true)
    (hunit : oneUnit s = .ok { emitBytes bs s with txNext := j }) :
    exec (.txunit false) s = .next (unitSent bs j s) := by
  have hfinish : finishUnit { emitBytes bs s with txNext := j } = unitSent bs j s := by
    unfold finishUnit
    split
    next hend => simp [unitSent, emitBytes, not_le.mpr hend]
    next hmore => simp [unitSent, emitBytes, not_lt.mp hmore, htx]
  rw [exec, execTxunit, if_pos htx, if_neg Bool.false_ne_true, hunit]
  exact congrArg _ hfinish

/-- A raw unit sends the sample at the cursor and moves down by one (42 R181). -/
theorem exec_txunit_raw {s : State} {v : Sample} (htx : s.txActive = true) (hraw : s.lat.rle = false)
    (hv : logicalRead s s.txNext = .ok v) :
    exec (.txunit false) s = .next (unitSent (rawBytes s.lat v) (s.txNext - 1) s) :=
  exec_txunit_sends htx (by simp [oneUnit, hraw, rawUnit, hv])

/-- Settles O38: a raw unit that reads a value. -/
theorem rawUnitEmitsEnabledGroups : Obligations.RawUnitEmitsEnabledGroups :=
  fun _ _ => exec_txunit_raw

/-! ## A run (42 R182) -/

/-- The logical samples from index `top` down to the lower bound have values, those of `f`. -/
def ReadsTo (s : State) (f : Int → Sample) (top : Int) : Prop :=
  ∀ j, 0 ≤ j → j ≤ top → logicalRead s j = .ok (f j)

/-- `n` samples from index `top` down have the value `v` under the mask `m`, and a longer run would pass the lower bound,
be longer than `limit` or take a different value. -/
structure MaximalRun (m : Sample) (f : Int → Sample) (v : Sample) (top : Int) (limit n : Nat) : Prop where
  le_top : (n : Int) ≤ top + 1
  le_limit : n ≤ limit
  equal : ∀ k : Nat, k < n → f (top - k) &&& m = v
  ends : (n : Int) = top + 1 ∨ n = limit ∨ f (top - n) &&& m ≠ v

/-- A run grows by the sample above it. -/
theorem MaximalRun.cons {m v : Sample} {f : Int → Sample} {top : Int} {limit n : Nat}
    (h : MaximalRun m f v (top - 1) limit n) (hv : f top &&& m = v) : MaximalRun m f v top (limit + 1) (n + 1) := by
  obtain ⟨htop, hlimit, hequal, hends⟩ := h
  have hindex : ∀ k : Nat, top - (k + 1 : Nat) = top - 1 - k := by omega
  refine ⟨by omega, by omega, fun k hk => ?_, ?_⟩
  · cases k with
    | zero => simpa using hv
    | succ k => exact hindex k ▸ hequal k (by omega)
  · rw [hindex]
    exact hends.imp (by omega) (Or.imp_left (by omega))

/-- The run-extending loop takes a maximal run. -/
theorem extendRun_maximal {s : State} {f : Int → Sample} {v : Sample} {left : Nat} {j : Int} (n : Nat) (hj : -1 ≤ j)
    (hreads : ReadsTo s f j) : ∃ k, MaximalRun (groupMask s.lat) f v j left k ∧
      extendRun s v left n j = .ok (n + k, j - k) := by
  induction left generalizing n j with
  | zero => exact ⟨0, ⟨by omega, le_rfl, nofun, .inr (.inl rfl)⟩, by simp [extendRun]⟩
  | succ left ih =>
    by_cases hend : j < 0
    · exact ⟨0, ⟨by omega, by omega, nofun, .inl (by omega)⟩, by simp [extendRun, hend]⟩
    have hread := hreads j (by omega) le_rfl
    by_cases hsame : f j &&& groupMask s.lat = v
    · obtain ⟨k, hrun, hloop⟩ := ih (n + 1) (j := j - 1) (by omega) fun i h0 hi => hreads i h0 (by omega)
      refine ⟨k + 1, hrun.cons hsame, ?_⟩
      rw [extendRun, if_neg hend, hread]
      dsimp only
      rw [if_pos hsame, hloop]
      congr 2 <;> omega
    · exact ⟨0, ⟨by omega, by omega, nofun, .inr (.inr (by simpa using hsame))⟩,
        by simp [extendRun, hend, hread, hsame]⟩

theorem maxRun_pos (l : Latched) : 0 < maxRun l := by
  unfold maxRun; split <;> decide

/-- The bytes of a run: its header, then its value in the raw encoding (42 R182). -/
def runBytes (l : Latched) (n : Nat) (v : Sample) : List Byte := runHeader l n ++ rawBytes l v

/-- An RLE unit sends one maximal run and moves down by its length (42 R182). -/
theorem exec_txunit_rle {s : State} {f : Int → Sample} (htx : s.txActive = true) (hrle : s.lat.rle = true)
    (h0 : 0 ≤ s.txNext) (hreads : ReadsTo s f s.txNext) :
    let v := f s.txNext &&& groupMask s.lat
    ∃ n, 1 ≤ n ∧ MaximalRun (groupMask s.lat) f v s.txNext (maxRun s.lat) n ∧
      exec (.txunit false) s = .next (unitSent (runBytes s.lat n v) (s.txNext - n) s) := by
  intro v
  obtain ⟨k, hrun, hloop⟩ := extendRun_maximal (v := v) (left := maxRun s.lat - 1) 1 (j := s.txNext - 1) (by omega)
    fun i hi hle => hreads i hi (by omega)
  have hlimit : maxRun s.lat - 1 + 1 = maxRun s.lat := Nat.sub_add_cancel (maxRun_pos s.lat)
  have hmoved : s.txNext - 1 - k = s.txNext - (1 + k : Nat) := by omega
  refine ⟨1 + k, by omega, ?_, exec_txunit_sends htx ?_⟩
  · simpa [hlimit, Nat.add_comm] using hrun.cons rfl
  · rw [oneUnit, if_pos hrle, rleUnit, hreads _ h0 le_rfl]
    dsimp only
    rw [hloop, hmoved]
    rfl

/-- The header's bytes by the number of enabled groups, each byte by the run length it holds (42 R183). -/
theorem runHeader_eq {l : Latched} (hg : l.g0 = true ∨ l.g1 = true) (n : Nat) : runHeader l n =
    if l.g0 && l.g1 then [BitVec.ofNat 8 (n - 1), 0x80 ||| BitVec.ofNat 8 ((n - 1) / 256)]
    else [0x80 ||| BitVec.ofNat 8 (n - 1)] := by
  obtain ⟨-, -, hone, -⟩ := groups_enabled l hg
  obtain ⟨hlow, hhigh⟩ := runHeader_bytes (n - 1)
  by_cases hboth : (l.g0 && l.g1) = true
  · rw [runHeader, if_neg (by simp [hone, hboth]), if_pos hboth]
    dsimp only
    rw [hlow, hhigh]
  · rw [runHeader, if_pos (hone.mpr (by simpa using hboth)), if_neg hboth]

/-- Settles O39: the run is the loop's, and the limit, the mask and the header are those of the enabled groups. -/
theorem rleUnitEmitsOneMaximalRun : Obligations.RleUnitEmitsOneMaximalRun := by
  intro s f htx hrle hg h0 hreads both m max
  obtain ⟨hmax, hmask, -, -⟩ := groups_enabled s.lat hg
  obtain ⟨n, hpos, hrun, hexec⟩ := exec_txunit_rle htx hrle h0 hreads
  rw [hmax, hmask] at hrun
  rw [runBytes, runHeader_eq hg, hmask] at hexec
  exact ⟨n, hpos, hrun.le_limit, hrun.le_top, hrun.equal, hrun.ends, hexec⟩

/-! ## The reference decoder reads a run back (42 R184) -/

/-- A header of `w + 1` bits: the marker in the top bit, and the number `m` below it (42 R183). -/
def headerWord (w m : Nat) : BitVec (w + 1) := BitVec.twoPow (w + 1) w ||| BitVec.ofNat (w + 1) m

theorem headerWord_marker (w m : Nat) : (headerWord w m).getLsbD w = true := by simp [headerWord]

theorem headerWord_number {w m : Nat} (hm : m < 2 ^ w) : ((headerWord w m).extractLsb' 0 w).toNat = m := by
  simp [headerWord, Nat.or_mod_two_pow, Nat.mod_eq_of_lt, hm, Nat.pow_succ]

/-- A 16-bit word is put together again from the two bytes sent. -/
theorem extractLsb'_append_halves (x : BitVec 16) : x.extractLsb' 8 8 ++ x.extractLsb' 0 8 = x :=
  (BitVec.extractLsb'_append_extractLsb'_eq_extractLsb' rfl).trans BitVec.extractLsb'_eq_self

theorem lowByte_of_masked (v : Sample) : ((v &&& 0x00FF).extractLsb' 0 8).setWidth 16 = v &&& 0x00FF := by
  ext i hi
  interval_cases i <;> simp

theorem highByte_of_masked (v : Sample) : ((v &&& 0xFF00).extractLsb' 8 8).setWidth 16 <<< 8 = v &&& 0xFF00 := by
  ext i hi
  interval_cases i <;> simp

theorem groupCount_eq_one {l : Latched} (h : groupCount l = 1) :
    (l.g0 = true ∧ l.g1 = false) ∨ (l.g0 = false ∧ l.g1 = true) := by
  unfold groupCount at h
  cases hg0 : l.g0 <;> cases hg1 : l.g1 <;> simp [hg0, hg1] at h ⊢

theorem groupCount_eq_two {l : Latched} (h : groupCount l = 2) : l.g0 = true ∧ l.g1 = true := by
  unfold groupCount at h
  cases hg0 : l.g0 <;> cases hg1 : l.g1 <;> simp [hg0, hg1] at h ⊢

/-- The one enabled group's byte, put back at its place, is the masked value. -/
theorem placeByte_rawBytes {l : Latched} (h : groupCount l = 1) (v : Sample) :
    ∃ p, rawBytes l (v &&& groupMask l) = [p] ∧ placeByte l p = v &&& groupMask l := by
  rcases groupCount_eq_one h with ⟨hg0, hg1⟩ | ⟨hg0, hg1⟩
  · have hmask : groupMask l = 0x00FF := by simp [groupMask, hg0, hg1]
    rw [hmask]
    exact ⟨_, by simp [rawBytes, hg0, hg1], (if_pos hg0).trans (lowByte_of_masked v)⟩
  · have hmask : groupMask l = 0xFF00 := by simp [groupMask, hg0, hg1]
    rw [hmask]
    exact ⟨_, by simp [rawBytes, hg0, hg1], (if_neg (by simp [hg0])).trans (highByte_of_masked v)⟩

theorem runHeader_one {l : Latched} (h : groupCount l = 1) (m : Nat) : runHeader l (m + 1) = [headerWord 7 m] :=
  if_pos h

theorem runHeader_two {l : Latched} (h : groupCount l = 2) (m : Nat) :
    runHeader l (m + 1) = [(headerWord 15 m).extractLsb' 0 8, (headerWord 15 m).extractLsb' 8 8] :=
  if_neg (by simp [h])

theorem rawBytes_two {l : Latched} (h : groupCount l = 2) (v : Sample) :
    rawBytes l v = [v.extractLsb' 0 8, v.extractLsb' 8 8] := by
  obtain ⟨hg0, hg1⟩ := groupCount_eq_two h
  simp [rawBytes, hg0, hg1]

theorem decodeRuns1_run {l : Latched} (h : groupCount l = 1) {m : Nat} (hm : m < 128) (v : Sample)
    {rest : List Byte} {vs : List Sample} (hrest : decodeRuns1 l rest = some vs) :
    decodeRuns1 l (runBytes l (m + 1) (v &&& groupMask l) ++ rest) =
      some (List.replicate (m + 1) (v &&& groupMask l) ++ vs) := by
  obtain ⟨p, hbytes, hplace⟩ := placeByte_rawBytes h v
  rw [runBytes, runHeader_one h, hbytes]
  simp only [List.cons_append, List.nil_append, decodeRuns1]
  rw [if_pos (headerWord_marker 7 m), hrest, headerWord_number hm, hplace]

theorem decodeRuns2_run {l : Latched} (h : groupCount l = 2) {m : Nat} (hm : m < 32768) (v : Sample)
    {rest : List Byte} {vs : List Sample} (hrest : decodeRuns2 rest = some vs) :
    decodeRuns2 (runBytes l (m + 1) v ++ rest) = some (List.replicate (m + 1) v ++ vs) := by
  rw [runBytes, runHeader_two h, rawBytes_two h]
  simp only [List.cons_append, List.nil_append, decodeRuns2]
  rw [extractLsb'_append_halves, extractLsb'_append_halves, if_pos (headerWord_marker 15 m), hrest,
    headerWord_number hm]

/-- The decoder reads a run's bytes back as that many samples of its value. -/
theorem decodeRuns_run {l : Latched} (hg : l.g0 = true ∨ l.g1 = true) {n : Nat} (hpos : 1 ≤ n) (hmax : n ≤ maxRun l)
    (v : Sample) {rest : List Byte} {vs : List Sample} (hrest : decodeRuns l rest = some vs) :
    decodeRuns l (runBytes l n (v &&& groupMask l) ++ rest) =
      some (List.replicate n (v &&& groupMask l) ++ vs) := by
  obtain ⟨m, rfl⟩ := Nat.exists_eq_add_of_le' hpos
  obtain ⟨hlimit, -, hone, htwo⟩ := groups_enabled l hg
  unfold decodeRuns at hrest ⊢
  cases hboth : l.g0 && l.g1 with
  | false =>
    have h := hone.mpr hboth
    rw [if_pos h] at hrest ⊢
    exact decodeRuns1_run h (by simpa [hlimit, hboth] using hmax) v hrest
  | true =>
    have h := htwo.mpr hboth
    rw [if_neg (by simp [h]), if_pos h] at hrest ⊢
    exact decodeRuns2_run h (by simpa [hlimit, hboth] using hmax) _ hrest

theorem decodeRuns_nil {l : Latched} (hg : l.g0 = true ∨ l.g1 = true) : decodeRuns l [] = some [] := by
  obtain ⟨-, -, hone, htwo⟩ := groups_enabled l hg
  unfold decodeRuns
  cases hboth : l.g0 && l.g1 with
  | false => rw [if_pos (hone.mpr hboth), decodeRuns1]
  | true => rw [if_neg (by simp [hone, hboth]), if_pos (htwo.mpr hboth), decodeRuns2]

/-! ## Whole transmissions (42 R179, R185) -/

/-- The samples `k - 1` down to 0 are still to be sent, and have values, those of `f`. -/
structure Sending (s : State) (f : Int → Sample) (k : Nat) : Prop where
  cursor : s.txNext = (k : Int) - 1
  active : s.txActive = decide (0 < k)
  reads : ReadsTo s f s.txNext

/-- A transmission whose cursor is at `n` has `n + 1` samples still to send. -/
theorem Sending.of_cursor {s : State} {f : Nat → Sample} {n : Nat} (htx : s.txActive = true) (hn : s.txNext = n)
    (hreads : ∀ i ≤ n, logicalRead s (i : Nat) = .ok (f i)) : Sending s (fun j => f j.toNat) (n + 1) where
  cursor := by omega
  active := by simp [htx]
  reads j h0 hj := by
    lift j to Nat using h0
    exact hreads j (by omega)

theorem Sending.after_unit {s : State} {f : Int → Sample} {k n : Nat} (hs : Sending s f k) (hn : n ≤ k)
    (bs : List Byte) : Sending (unitSent bs (s.txNext - n) s) f (k - n) := by
  obtain ⟨hcursor, -, hreads⟩ := hs
  refine ⟨by rw [unitSent_txNext]; omega, ?_, fun j h0 hj => hreads j h0 ?_⟩
  · exact decide_eq_decide.mpr (by omega)
  · rw [unitSent_txNext] at hj
    omega

/-- `bytes` sent from `s` on, and the transmission over (42 R179, R185). -/
structure SentAll (s t : State) (bytes : List Byte) : Prop where
  active : t.txActive = false
  cursor : t.txNext = -1
  txOut : t.txOut = s.txOut ++ bytes

theorem Sending.sentAll_of_none {s : State} {f : Int → Sample} (hs : Sending s f 0) : SentAll s s [] :=
  ⟨hs.active, hs.cursor, by simp⟩

theorem SentAll.cons {s t : State} {bs bytes : List Byte} {j : Int} (h : SentAll (unitSent bs j s) t bytes) :
    SentAll s t (bs ++ bytes) := ⟨h.active, h.cursor, by simp [h.txOut]⟩

theorem runUnits_succ {s t : State} {n : Nat} (h : exec (.txunit false) s = .next t) :
    runUnits (n + 1) s = runUnits n t := by rw [runUnits, h]

/-- A raw transmission takes one unit per sample. By induction on the samples still to be sent. -/
theorem Sending.runUnits_raw {s : State} {f : Int → Sample} {k : Nat} (hs : Sending s f k)
    (hraw : s.lat.rle = false) : ∃ t, runUnits k s = .next t ∧
      SentAll s t ((List.range k).reverse.flatMap fun i : Nat => rawBytes s.lat (f i)) := by
  induction k generalizing s with
  | zero => exact ⟨s, rfl, hs.sentAll_of_none⟩
  | succ k ih =>
    have hk : s.txNext = k := by simpa using hs.cursor
    have hunit := exec_txunit_raw (by simpa using hs.active) hraw (hs.reads s.txNext (by omega) le_rfl)
    obtain ⟨t, hrun, hsent⟩ := ih (hs.after_unit (n := 1) (by omega) _) hraw
    refine ⟨t, (runUnits_succ hunit).trans hrun, ?_⟩
    rw [List.range_succ, List.reverse_append, List.reverse_singleton, List.singleton_append, List.flatMap_cons, ← hk]
    exact hsent.cons

/-- Settles O41: `n + 1` samples are still to be sent. -/
theorem rawTransmissionSendsEverySample : Obligations.RawTransmissionSendsEverySample := by
  intro s f n htx hraw hn hreads
  obtain ⟨t, hrun, hactive, hcursor, hout⟩ := (Sending.of_cursor htx hn hreads).runUnits_raw hraw
  exact ⟨t, hrun, hactive, hcursor, hout⟩

/-- The values of `g` at `k - 1` down to 0 begin with those of a run of `n`. -/
theorem map_reverse_range_of_run {α : Type} {g : Nat → α} {v : α} {k n : Nat} (hn : n ≤ k)
    (hrun : ∀ i < n, g (k - 1 - i) = v) :
    (List.range k).reverse.map g = List.replicate n v ++ (List.range (k - n)).reverse.map g := by
  obtain ⟨m, rfl⟩ := Nat.exists_eq_add_of_le' hn
  rw [List.range_add, List.reverse_append, List.map_append, Nat.add_sub_cancel]
  congr 1
  refine List.eq_replicate_iff.mpr ⟨by simp, fun w hw => ?_⟩
  obtain ⟨i, hi, rfl⟩ : ∃ i < n, g (m + i) = w := by simpa using hw
  rw [← hrun (n - 1 - i) (by omega)]
  congr 1
  omega

/-- An RLE transmission takes at most one unit per sample, and its bytes decode to the masked samples. By induction on
the samples still to be sent: a unit sends a run of them. -/
theorem Sending.runUnits_rle {s : State} {f : Int → Sample} {k : Nat} (hs : Sending s f k)
    (hrle : s.lat.rle = true) (hg : s.lat.g0 = true ∨ s.lat.g1 = true) :
    ∃ units t bytes, runUnits units s = .next t ∧ units ≤ k ∧ SentAll s t bytes ∧
      decodeRuns s.lat bytes = some ((List.range k).reverse.map fun i : Nat => f i &&& groupMask s.lat) := by
  induction k using Nat.strong_induction_on generalizing s with
  | h k ih =>
    rcases Nat.eq_zero_or_pos k with rfl | hk
    · exact ⟨0, s, [], rfl, le_rfl, hs.sentAll_of_none, decodeRuns_nil hg⟩
    have hcursor := hs.cursor
    obtain ⟨n, hpos, hrun, hunit⟩ := exec_txunit_rle (by simpa [hs.active] using hk) hrle (by omega) hs.reads
    have hn : n ≤ k := by have := hrun.le_top; omega
    obtain ⟨units, t, bytes, hunits, hle, hsent, hdecode⟩ :=
      ih (k - n) (by omega) (hs.after_unit hn _) hrle hg
    refine ⟨units + 1, t, _, (runUnits_succ hunit).trans hunits, by omega, hsent.cons, ?_⟩
    rw [decodeRuns_run hg hpos hrun.le_limit _ hdecode, map_reverse_range_of_run hn fun i hi => ?_]
    · rfl
    · have hindex : ((k - 1 - i : Nat) : Int) = s.txNext - i := by omega
      exact hindex ▸ hrun.equal i hi

/-- Settles O42: `n + 1` samples are still to be sent, in runs that the decoder reads back. -/
theorem rleTransmissionRoundTrips : Obligations.RleTransmissionRoundTrips := by
  intro s f n htx hrle hg hn hreads
  obtain ⟨units, t, bytes, hunits, hle, ⟨hactive, hcursor, hout⟩, hdecode⟩ :=
    (Sending.of_cursor htx hn hreads).runUnits_rle hrle hg
  exact ⟨units, t, bytes, hunits, hle, hactive, hcursor, hout, hdecode⟩

end Sys2Proof.Machine
end

section
/-! SUPPORT. The statements of spec/48_host_frontend.md, its functions: the clock selection (R240), which triggers a stage
asks for (R231 to R235, R237) and the translation of the stages (R230, R236, R237). -/

namespace Sys2Proof.Machine

open Sys2Proof.Config

/-! ## Clock selection (48 R240) -/

theorem clampDiv_eq_min (d : Rat) : clampDiv d = min d DIV_MAX := by
  rw [clampDiv, min_def]

theorem selectClock_eq_none {rate : Rat} (h : rate ≤ 0) : selectClock rate = none := if_pos h

/-- The fast regime (48 R240). -/
theorem selectClock_fast {rate : Rat} (h : RATE_THRESHOLD < rate) : selectClock rate = some
    { clk := FAST_CLK
      div := min ((FAST_CLK : Rat) / rate) DIV_MAX
      quant := DIV_QUANT (min ((FAST_CLK : Rat) / rate) DIV_MAX) } := by
  have hpos : ¬ rate ≤ 0 := not_le.mpr (lt_trans (by norm_num) h)
  simp only [selectClock, if_neg hpos, if_pos h, clampDiv_eq_min]

/-- The slow regime (48 R240). -/
theorem selectClock_slow {rate : Rat} (hpos : 0 < rate) (h : rate ≤ RATE_THRESHOLD) : selectClock rate = some
    { clk := SLOW_CLK
      div := min ((SLOW_CLK : Rat) / rate / 32 / 10) DIV_MAX
      quant := DIV_QUANT (min ((SLOW_CLK : Rat) / rate / 32 / 10) DIV_MAX) } := by
  simp only [selectClock, if_neg (not_le.mpr hpos), if_neg (not_lt.mpr h), clampDiv_eq_min]

/-- Settles O55: the refusal and the two regimes, in both of which the divisor is the smaller of two positive numbers. -/
theorem selectClockRegimes : Obligations.SelectClockRegimes := by
  refine fun rate => ⟨selectClock_eq_none, fun hpos => ?_⟩
  obtain hfast | hslow := lt_or_ge RATE_THRESHOLD rate
  · refine ⟨_, selectClock_fast hfast, min_le_right _ _, lt_min (by positivity) (by norm_num), rfl,
      fun _ => ⟨rfl, by norm_num⟩, fun hle => absurd hfast (not_lt.mpr hle)⟩
  · refine ⟨_, selectClock_slow hpos hslow, min_le_right _ _, lt_min (by positivity) (by norm_num), rfl,
      fun hlt => absurd hlt (not_lt.mpr hslow), fun _ => ⟨rfl, by norm_num⟩⟩

/-! ## The triggers a stage asks for (48 R231 to R235, R237) -/

theorem stageLevel_eq_zero_iff {c : Word32} : stageLevel c = 0 ↔ c.extractLsb' 16 2 = 0 :=
  BitVec.toNat_inj (y := 0)

theorem eligible_iff {r : StageRegs} : eligible r = true ↔
    r.mask ≠ 0 ∧ r.config.getLsbD 27 = true ∧ r.config.extractLsb' 16 2 = 0 := by
  simp only [eligible, stageStart, stageLevel_eq_zero_iff, Bool.and_eq_true, decide_eq_true_eq, and_assoc]

/-- A parallel stage asks for one trigger per set mask bit (48 R232). -/
theorem mem_parallelCandidates {r : StageRegs} {c : Candidate} : c ∈ parallelCandidates r ↔
    ∃ ch < 32, r.mask.getLsbD ch = true ∧ c.pin = channelPin ch ∧
      c.kind = parallelKind (r.values.getLsbD ch) EDGE_OVERRIDE := by
  obtain ⟨pin, kind⟩ := c
  simp only [parallelCandidates, List.mem_map, List.mem_filter, List.mem_range, Candidate.mk.injEq, and_assoc,
    eq_comm (a := pin), eq_comm (a := kind)]

/-- Channels ascend, and with them the pins (48 R232, R237). -/
theorem parallelCandidates_pairwise (r : StageRegs) :
    (parallelCandidates r).Pairwise (fun a b => a.pin < b.pin) := by
  rw [parallelCandidates, List.pairwise_map]
  exact (List.pairwise_lt_range.filter _).imp fun h => Nat.add_lt_add_left h _

/-- The two masks of a serial stage, each with the value bits that ask for a trigger (48 R233 to R235). -/
theorem mem_serialCandidates {r : StageRegs} {c : Candidate} : c ∈ serialCandidates r ↔
    c.pin = channelPin (stageChannel r.config) ∧
      ((r.mask = 3 ∧ r.values.getLsbD 0 = false ∧ r.values.getLsbD 1 = true ∧ c.kind = .edgeHigh) ∨
       (r.mask = 3 ∧ r.values.getLsbD 0 = true ∧ r.values.getLsbD 1 = false ∧ c.kind = .edgeLow) ∨
       (r.mask = 1 ∧ r.values.getLsbD 0 = true ∧ c.kind = .levelHigh) ∨
       (r.mask = 1 ∧ r.values.getLsbD 0 = false ∧ c.kind = .levelLow)) := by
  obtain ⟨pin, kind⟩ := c
  by_cases h3 : r.mask = 3
  · cases h0 : r.values.getLsbD 0 <;> cases h1 : r.values.getLsbD 1 <;>
      simp only [serialCandidates, h3, h0, h1] <;> simp
  · by_cases h1 : r.mask = 1
    · cases h0 : r.values.getLsbD 0 <;> simp only [serialCandidates, h1, h0] <;> simp
    · simp only [serialCandidates, h3, h1]
      simp

/-- A serial stage asks for one trigger at most (48 R233 to R235). -/
theorem serialCandidates_pairwise (r : StageRegs) :
    (serialCandidates r).Pairwise (fun a b => a.pin < b.pin) := by
  unfold serialCandidates
  split
  · split <;> simp
  · split <;> simp

/-- The candidates of an eligible stage, by its SERIAL bit; another stage has none (48 R231). -/
theorem mem_stageCandidates {r : StageRegs} {c : Candidate} : c ∈ stageCandidates r ↔ eligible r = true ∧
    ((stageSerial r.config = false ∧ c ∈ parallelCandidates r) ∨
     (stageSerial r.config = true ∧ c ∈ serialCandidates r)) := by
  cases he : eligible r <;> cases hs : stageSerial r.config <;> simp [stageCandidates, he, hs]

theorem stageCandidates_pairwise (r : StageRegs) : (stageCandidates r).Pairwise (fun a b => a.pin < b.pin) := by
  unfold stageCandidates
  split
  · split
    · exact serialCandidates_pairwise r
    · exact parallelCandidates_pairwise r
  · exact .nil

/-- Settles O54: eligibility, then the stage's kind. -/
theorem stageAsksForItsTriggers : Obligations.StageAsksForItsTriggers := by
  refine fun r => ⟨stageCandidates_pairwise r, fun c => ?_⟩
  rw [mem_stageCandidates, eligible_iff, mem_parallelCandidates, mem_serialCandidates, and_assoc, and_assoc]
  rfl

/-! ## The translation of the stages (48 R230, R236, R237) -/

theorem allCandidates_eq_flatMap (fe : FrontEnd) : allCandidates fe =
    (List.finRange 4).flatMap (fun j => (stageCandidates fe.stages[j]).map (fun c => (j.val, c))) := by
  simp [allCandidates, List.finRange_succ]

/-- A translation is refused for a pin beyond the snapshot (48 R237; log 14). -/
theorem translateStages_eq_none_iff {fe : FrontEnd} :
    translateStages fe = none ↔ ∃ c ∈ allCandidates fe, 31 < c.2.pin := by
  simp [translateStages]

/-- Any other translation keeps the first four candidates and reports the rest (48 R230, R236). -/
theorem translateStages_eq_some_iff {fe : FrontEnd} {ts : List Candidate} {drops : List Event} :
    translateStages fe = some (ts, drops) ↔ (∀ c ∈ allCandidates fe, c.2.pin ≤ 31) ∧
      ((allCandidates fe).take 4).map Prod.snd = ts ∧
      ((allCandidates fe).drop 4).map (fun c => Event.diagTrigDrop c.1) = drops := by
  simp [translateStages]

/-- The triggers of a translation fit the four registers, and their pins the snapshot. -/
theorem translateStages_bounds {fe : FrontEnd} {ts : List Candidate} {drops : List Event}
    (h : translateStages fe = some (ts, drops)) : ts.length ≤ 4 ∧ ∀ c ∈ ts, c.pin ≤ 31 := by
  obtain ⟨hpins, rfl, -⟩ := translateStages_eq_some_iff.mp h
  refine ⟨by simp, fun c hc => ?_⟩
  obtain ⟨x, hx, rfl⟩ := List.mem_map.mp hc
  exact hpins x (List.mem_of_mem_take hx)

/-- Settles O53: the triggers are taken from the front of the candidates, and the drops from the rest. -/
theorem translateKeepsFirstFour : Obligations.TranslateKeepsFirstFour := by
  refine fun fe => ⟨allCandidates_eq_flatMap fe, ?_⟩
  split
  next ts drops h =>
    obtain ⟨hpins, rfl, rfl⟩ := translateStages_eq_some_iff.mp h
    refine ⟨hpins, ?_, ?_, fun hlt => ?_, fun k hk => ?_, fun k _ => ?_⟩
    · simp
    · simp only [List.length_map, List.length_take, List.length_drop]
      omega
    · have hshort : (allCandidates fe).length ≤ 4 := by
        simp only [List.length_map, List.length_take] at hlt
        omega
      simp [hshort]
    · have hk4 : k < 4 := by
        simp only [List.length_map, List.length_take] at hk
        omega
      simp [List.getElem?_take_of_lt hk4]
    · simp
  next h => exact translateStages_eq_none_iff.mp h

end Sys2Proof.Machine
end

section
/-! SUPPORT. The statements of spec/48_host_frontend.md, its commands: the poll and the operations issued (R212, R214), what
each command writes (R213 to R225), and the operations a run command issues (R214). -/

namespace Sys2Proof.Machine

open Sys2Proof.Config

/-! ## The poll and the issued operations (48 R212, R214; log 5) -/

theorem fetchPoll_command {s : State} {i : Instr} {rx : List (Option Byte)} (h : pollCommand s.hostRx = (some i, rx)) :
    fetchPoll s = .run i { s with hostRx := rx } := by simp [fetchPoll, h]

/-- Without a byte at the head of the link a poll reads no command, and uses up the timed-out slot if there is one. -/
theorem pollCommand_no_byte {l : List (Option Byte)} (h : ∀ b rx, l ≠ some b :: rx) :
    pollCommand l = (none, l.tail) := by
  match l with
  | [] => rfl
  | none :: rx => rfl
  | some b :: rx => exact absurd rfl (h b rx)

theorem fetchPoll_no_byte {s : State} (h : ∀ b rx, s.hostRx ≠ some b :: rx) :
    fetchPoll s = .quiet { s with hostRx := s.hostRx.tail } := by simp [fetchPoll, pollCommand_no_byte h]

theorem fetchTurn_poll {s : State} (ts : List Turn) (h : s.issued = []) :
    fetchTurn .poll ts s = fetchPoll { s with turns := ts } := by simp [fetchTurn, h]

/-- Settles O8: with nothing issued the poll reads the link. -/
theorem pollRunsCommandOrNothing : Obligations.PollRunsCommandOrNothing := by
  intro s ts hf ht hi
  have hfetch : fetch s = fetchPoll { s with turns := ts } := (fetch_of_takeTurn hf ht).trans (fetchTurn_poll ts hi)
  exact ⟨fun i rx hcmd => step_of_run (hfetch.trans (fetchPoll_command hcmd)),
    fun hnone => step_of_quiet (hfetch.trans (fetchPoll_no_byte hnone))⟩

theorem fetchIssued_cons {s : State} {w : OpWord} {ws : List OpWord} {i : Instr} (s' : State)
    (hi : s.issued = w :: ws) (hd : decodeOp w = .instr i) (he : enabledNow i s = true) :
    fetchIssued s' s = .run i { s' with issued := ws } := by
  simp only [fetchIssued, hi, fetchWord_enabled _ hd he]

/-- A poll turn waits while operations are issued. -/
theorem fetchTurn_poll_waits {s : State} (ts : List Turn) (h : s.issued ≠ []) :
    fetchTurn .poll ts s = fetchIssued s s := by simp [fetchTurn, h]

/-- So does a turn of an operation of the main sequence. -/
theorem fetchTurn_op_waits {s : State} {x : OpWord} {j : Instr} (ts : List Turn) (hd : decodeOp x = .instr j)
    (hmain : agentOf j = some .main) (h : s.issued ≠ []) : fetchTurn (.op x) ts s = fetchIssued s s := by
  simp [fetchTurn, turnOfMain_op hd, hmain, h]

/-- With no turn to take, the first operation issued is run. -/
theorem step_issued {s : State} {w : OpWord} {ws : List OpWord} {i : Instr} (hf : s.faulted = none)
    (ht : takeTurn s s.turns = none) (hi : s.issued = w :: ws) (hd : decodeOp w = .instr i)
    (he : enabledNow i s = true) : step s = exec i { s with issued := ws } :=
  step_of_run ((fetch_of_no_turn hf ht).trans (fetchIssued_cons s hi hd he))

/-- Settles O9: in each of the four cases the step fetches the first operation issued. -/
theorem stepTakesIssuedInOrder : Obligations.StepTakesIssuedInOrder := by
  intro s w ws i hf hi hd he
  have hne : s.issued ≠ [] := by simp [hi]
  have hfirst (s' : State) := fetchIssued_cons s' hi hd he
  refine ⟨fun ht => step_issued hf ht hi hd he, fun ts ht => step_of_run ?_, fun x ts j ht hx hj => step_of_run ?_,
    fun ts ht => step_of_run ?_⟩
  · rw [fetch_of_takeTurn hf ht, fetchTurn_poll_waits ts hne, hfirst]
  · rw [fetch_of_takeTurn hf ht, fetchTurn_op_waits ts hx hj hne, hfirst]
  · rw [fetch_of_takeTurn hf ht, fetchTurn, hfirst]

/-! ## Commands without a block operation (48 R213, R215 to R225) -/

/-- The words of a host reset: TXUNIT 1 during a transmission, and ABORT (48 R213). -/
theorem resetOps_eq (s : State) :
    resetOps s = if s.txActive then [0x900100000000, 0x300000000000] else [0x300000000000] := by
  cases h : s.txActive <;> simp [resetOps, h] <;> decide

/-- Settles O44: the front-end's fields as written, and the words issued. -/
theorem hostResetZeroesProtocolState : Obligations.HostResetZeroesProtocolState := by
  refine fun s => ⟨_, rfl, rfl, rfl, fun j => ?_, rfl, rfl, rfl, ?_, rfl⟩
  · fin_cases j <;> rfl
  · rw [issueOps_issued, resetOps_eq]

/-- The bytes of a 32-bit value, byte by byte (30 R92). -/
theorem getElem?_bytesLE (v : Word32) (k : Fin 4) : (bytesLE v)[k.val]? = some (v.extractLsb' (8 * k.val) 8) := by
  fin_cases k <;> rfl

/-- Settles O47: the responses as the model writes them out, a field's value by its kind. -/
theorem idAndMetadataResponses : Obligations.IdAndMetadataResponses := by
  refine fun s => ⟨rfl, fun f => metaValueBytes (META_VALUE f), fun f => ?_, rfl⟩
  dsimp only
  cases META_VALUE f with
  | str bytes => rfl
  | num v => exact ⟨rfl, getElem?_bytesLE v⟩

theorem updateStage_stage_same (j : Fin 4) (f : StageRegs → StageRegs) (s : State) :
    (updateStage j f s).fe.stages[j] = f s.fe.stages[j] := by simp

theorem updateStage_stage_other {j k : Fin 4} (f : StageRegs → StageRegs) (s : State) (h : k ≠ j) :
    (updateStage j f s).fe.stages[k] = s.fe.stages[k] := by
  have hval : j.val ≠ k.val := fun e => h (Fin.ext e.symm)
  simp [Vector.getElem_set_ne, hval]

/-- A command that updates a stage writes that stage and nothing else (48 R217 to R219). -/
theorem exec_updates_stage {i : Instr} {j : Fin 4} {f : StageRegs → StageRegs} {s : State} {r : StageRegs}
    (h : exec i s = .next (updateStage j f s)) (hr : f s.fe.stages[j] = r) :
    ∃ t, exec i s = .next t ∧ t.fe.stages[j] = r ∧ (∀ k : Fin 4, k ≠ j → t.fe.stages[k] = s.fe.stages[k]) ∧
      t = { s with fe := { s.fe with stages := t.fe.stages } } :=
  ⟨_, h, hr ▸ updateStage_stage_same j f s, fun _ hk => updateStage_stage_other f s hk, rfl⟩

/-- Settles O48: each of the twelve commands is the update of its register of its stage. -/
theorem stageCommandsWriteTheirRegister : Obligations.StageCommandsWriteTheirRegister := by
  intro p s
  simp only [List.forall_mem_cons, List.not_mem_nil, false_imp_iff, implies_true, and_true]
  exact
    ⟨⟨exec_updates_stage rfl rfl, exec_updates_stage rfl rfl, exec_updates_stage rfl rfl, exec_updates_stage rfl rfl⟩,
    ⟨exec_updates_stage rfl rfl, exec_updates_stage rfl rfl, exec_updates_stage rfl rfl, exec_updates_stage rfl rfl⟩,
    ⟨exec_updates_stage rfl rfl, exec_updates_stage rfl rfl, exec_updates_stage rfl rfl, exec_updates_stage rfl rfl⟩⟩

/-- Settles O49: the rate is that of the divisor stored before. -/
theorem divisorAndFlagsSetRate : Obligations.DivisorAndFlagsSetRate := by
  refine fun p s => ⟨rfl, ?_⟩
  rw [exec, execHostFlags, rateOf, Nat.cast_add_one]
  rfl

/-- Settles O51: the meaning of an unlisted byte. -/
theorem otherBytesAreIgnored : Obligations.OtherBytesAreIgnored := fun _ _ => rfl

/-! ## The front-end's refusals (48 R221, R224, R237, R240) -/

theorem exec_hostLegacySize_negative {p : Word32} (s : State) (h : lowWord p < highWord p) :
    exec (.hostLegacySize p) s = .next (refuse .negativePreTrigger s) := by
  rw [exec, execHostLegacySize]
  exact if_pos (by omega)

theorem exec_hostPreTrigger_negative {p : Word32} {s : State} (h : s.fe.totalSamples < sizeXform p.toNat) :
    exec (.hostPreTrigger p) s = .next (refuse .negativePreTrigger s) := by
  rw [exec, execHostPreTrigger]
  exact if_pos (by omega)

theorem exec_hostRun_no_triggers {s : State} (h : translateStages s.fe = none) :
    exec .hostRun s = .next (refuse .triggerPinOutOfRange s) := by simp [exec, execHostRun, h]

theorem exec_hostRun_no_clock {s : State} {p : List Candidate × List Event} (h : translateStages s.fe = some p)
    (hsel : selectClock s.fe.rate = none) : exec .hostRun s = .next (refuse .zeroRate s) := by
  simp [exec, execHostRun, h, hsel]

/-- The run command where neither is refused (48 R214). -/
theorem exec_hostRun_issues {s : State} {ts : List Candidate} {drops : List Event} {sel : ClockSel}
    (h : translateStages s.fe = some (ts, drops)) (hsel : selectClock s.fe.rate = some sel) :
    exec .hostRun s = .next (issueOps (runOps s.fe ts) (emitEvents drops { s with clockSel := some sel })) := by
  simp [exec, execHostRun, h, hsel]

/-- Settles O52: each refusal by its command's own test. -/
theorem frontEndRefusalsSetMark : Obligations.FrontEndRefusalsSetMark := by
  refine fun p s => ⟨fun h => ?_, exec_hostPreTrigger_negative, fun h => ?_, fun hpins hrate => ?_⟩
  · rw [← lowWord_eq, ← highWord_eq] at h
    exact exec_hostLegacySize_negative s h
  · exact exec_hostRun_no_triggers (translateStages_eq_none_iff.mpr h)
  · exact exec_hostRun_no_clock (translateStages_eq_some_iff.mpr ⟨hpins, rfl, rfl⟩) (selectClock_eq_none hrate)

/-! ## The operations a run command issues (48 R214) -/

/-- A count of 32 bits is its own operand. -/
theorem countOperand_toNat (v : Word32) : countOperand v.toNat = v := by
  have hv : (v.toNat : Int) < 2 ^ 32 := by exact_mod_cast v.isLt
  rw [countOperand, if_pos ⟨by omega, hv⟩]
  simp

theorem decodeOp_runOps (fe : FrontEnd) (ts : List Candidate) : (runOps fe ts).map decodeOp =
    [.instr (.cfgwr 0 (countOperand fe.totalSamples)), .instr (.cfgwr 1 (countOperand fe.preTriggerSamples)),
     .instr (.cfgwr 2 (descriptorAt ts 0)), .instr (.cfgwr 3 (descriptorAt ts 1)),
     .instr (.cfgwr 4 (descriptorAt ts 2)), .instr (.cfgwr 5 (descriptorAt ts 3)),
     .instr (.cfgwr 6 (modeWord (flagG0 fe.flags) (flagG1 fe.flags) (flagRle fe.flags))), .instr .arm] := by
  simp (disch := decide) only [runOps, List.map_cons, List.map_nil, decodeOp_cfgwr, decodeOp_arm]

/-- The mode bits by the flags' own bits: the groups' bits are inverted (48 R214). -/
theorem modeWord_flags (f : Word32) : modeWord (flagG0 f) (flagG1 f) (flagRle f) =
    (if f.getLsbD 2 then 0 else 1) ||| (if f.getLsbD 3 then 0 else 2) ||| (if f.getLsbD 8 then 4 else 0) := by
  unfold modeWord flagG0 flagG1 flagRle
  cases f.getLsbD 2 <;> cases f.getLsbD 3 <;> rfl

/-- Settles O45: the words decode to the operations they were made from. -/
theorem hostRunIssuesCapture : Obligations.HostRunIssuesCapture := by
  intro s ts drops sel total pre htrans hsel htotal hpre
  refine ⟨_, exec_hostRun_issues htrans hsel, ?_⟩
  rw [decodeOp_runOps, htotal, hpre, countOperand_toNat, countOperand_toNat, modeWord_flags]
  rfl

end Sys2Proof.Machine
end

section
/-! SUPPORT. The statement of spec/48_host_frontend.md on a run command taken to its end (R214): the seven CFGWR build a
configuration, and ARM latches it (spec/40_acquisition_control.md R110 to R112). -/

namespace Sys2Proof.Machine

open Sys2Proof.Config

/-! ## The values a run command writes (48 R214; 10 R24, R25) -/

/-- A descriptor's low byte is all of it. -/
theorem descriptorAt_kept (ts : List Candidate) (j : Nat) :
    ((descriptorAt ts j).extractLsb' 0 8).setWidth 32 = descriptorAt ts j := by
  unfold descriptorAt
  split
  · rw [BitVec.extractLsb'_setWidth_of_le (by decide), BitVec.extractLsb'_eq_self]
  · decide

/-- A mode's low three bits are all of it. -/
theorem modeWord_kept (g0 g1 rle : Bool) :
    ((modeWord g0 g1 rle).extractLsb' 0 3).setWidth 32 = modeWord g0 g1 rle := by
  decide +revert

theorem descriptorAt_none {ts : List Candidate} {j : Nat} (h : ts[j]? = none) : descriptorAt ts j = 0 := by
  simp [descriptorAt, h]

theorem descriptorAt_lowByte {ts : List Candidate} {j : Nat} {c : Candidate} (h : ts[j]? = some c) :
    (descriptorAt ts j).extractLsb' 0 8 = descriptor c.kind c.pin := by
  simp [descriptorAt, h, BitVec.extractLsb'_setWidth_of_le, BitVec.extractLsb'_eq_self]

/-- KIND, the code of a packed descriptor's kind (10 R24). -/
theorem descriptor_kind (k : MatchKind) (pin : Fin 32) :
    (descriptor k pin).extractLsb' 5 2 = (kindCode k).setWidth 2 := by
  cases k <;> decide +revert

/-- EN tells the descriptors of the translated triggers from those of absent ones. -/
theorem descriptorAt_en {ts : List Candidate} (hpins : ∀ c ∈ ts, c.pin ≤ 31) (j : Nat) :
    (descriptorAt ts j).getLsbD 7 = decide (j < ts.length) := by
  cases h : ts[j]? with
  | none => simp [descriptorAt_none h, List.getElem?_eq_none_iff.mp h]
  | some c =>
    have hpin : c.pin < 32 := Nat.lt_succ_of_le (hpins c (List.mem_of_getElem? h))
    have hlen : j < ts.length := (List.getElem?_eq_some_iff.mp h).1
    have hen : ((descriptorAt ts j).extractLsb' 0 8).getLsbD 7 = true :=
      descriptorAt_lowByte h ▸ (descriptor_fields c.kind ⟨c.pin, hpin⟩).1
    simpa [hlen] using hen

/-! ## The seven CFGWR of a run command (40 R110) -/

/-- The configuration the words of `runOps` write. -/
def configured (fe : FrontEnd) (ts : List Candidate) (s : State) : State :=
  { s with
    cfgTotal := countOperand fe.totalSamples
    cfgPre := countOperand fe.preTriggerSamples
    cfgTrig := Vector.ofFn (fun j => descriptorAt ts j.val)
    cfgMode := modeWord (flagG0 fe.flags) (flagG1 fe.flags) (flagRle fe.flags) }

theorem set_all_four {α : Type} (v : Vector α 4) (f : Nat → α) :
    (((v.set 0 (f 0)).set 1 (f 1)).set 2 (f 2)).set 3 (f 3) = Vector.ofFn (fun j : Fin 4 => f j.val) := by
  ext i hi
  interval_cases i <;> simp

/-- One step of a run that the main sequence goes on with alone. -/
theorem runSteps_issued {s t : State} {w : OpWord} {ws : List OpWord} {i : Instr} (n : Nat) (hf : s.faulted = none)
    (ht : s.turns = []) (hi : s.issued = w :: ws) (hd : decodeOp w = .instr i) (he : enabledNow i s = true)
    (h : exec i { s with issued := ws } = .next t) : runSteps (n + 1) s = runSteps n t := by
  have hstep : step s = .next t := (step_issued hf (by simp [ht, takeTurn]) hi hd he).trans h
  rw [runSteps, hstep]

/-- A CFGWR that the main sequence takes from the issued operations. -/
theorem runSteps_cfgwr {s t : State} {r : BitVec 8} {v : Word32} {ws : List OpWord} (n : Nat) (hf : s.faulted = none)
    (ht : s.turns = []) (hi : s.issued = opWord 0x1 r v :: ws) (hr : r.toNat < 7)
    (h : exec (.cfgwr r v) { s with issued := ws } = .next t) : runSteps (n + 1) s = runSteps n t :=
  runSteps_issued n hf ht hi (decodeOp_cfgwr r v hr) (by simp [enabledNow]) h

/-- Seven steps write the configuration, and leave ARM issued. -/
theorem runSteps_runOps {s : State} {fe : FrontEnd} {ts : List Candidate} (n : Nat) (hf : s.faulted = none)
    (ht : s.turns = []) (hi : s.issued = runOps fe ts) :
    runSteps (n + 7) s = runSteps n (configured fe ts { s with issued := [opWord 0x2 0 0] }) := by
  calc runSteps (n + 7) s
    _ = runSteps (n + 6) _ := runSteps_cfgwr (n + 6) hf ht hi (by decide) rfl
    _ = runSteps (n + 5) _ := runSteps_cfgwr (n + 5) hf ht rfl (by decide) rfl
    _ = runSteps (n + 4) _ := runSteps_cfgwr (n + 4) hf ht rfl (by decide) rfl
    _ = runSteps (n + 3) _ := runSteps_cfgwr (n + 3) hf ht rfl (by decide) rfl
    _ = runSteps (n + 2) _ := runSteps_cfgwr (n + 2) hf ht rfl (by decide) rfl
    _ = runSteps (n + 1) _ := runSteps_cfgwr (n + 1) hf ht rfl (by decide) rfl
    _ = runSteps n _ := runSteps_cfgwr n hf ht rfl (by decide) rfl
    _ = _ := by simp only [descriptorAt_kept, modeWord_kept, configured, ← set_all_four s.cfgTrig]

/-! ## ARM after them (40 R111, R112) -/

theorem countP_lt (n : Nat) (h : n ≤ 4) : (List.finRange 4).countP (fun j => decide (j.val < n)) = n := by
  decide +revert

/-- What ARM latches of the configuration written: one descriptor for each trigger. -/
theorem latch_configured {s : State} {fe : FrontEnd} {ts : List Candidate} {total pre : Word32}
    (htotal : fe.totalSamples = total.toNat) (hpre : fe.preTriggerSamples = pre.toNat)
    (hroom : min pre.toNat RING_CAP + 1 ≤ total.toNat) (hpins : ∀ c ∈ ts, c.pin ≤ 31) (hlen : ts.length ≤ 4) :
    latch (configured fe ts s) = some
      { total := total.toNat
        pre := min pre.toNat RING_CAP
        post := min (total.toNat - min pre.toNat RING_CAP) POST_CAP
        trig := Vector.ofFn (fun j => (descriptorAt ts j.val).extractLsb' 0 8)
        ntrig := ts.length
        g0 := flagG0 fe.flags
        g1 := flagG1 fe.flags
        rle := flagRle fe.flags } := by
  have hcfgTotal : (configured fe ts s).cfgTotal = total := by simp only [configured, htotal, countOperand_toNat]
  have hcfgPre : (configured fe ts s).cfgPre = pre := by simp only [configured, hpre, countOperand_toNat]
  obtain ⟨-, hg0, hg1, hrle⟩ := modeWord_bits (flagG0 fe.flags) (flagG1 fe.flags) (flagRle fe.flags)
  have hntrig : (List.finRange 4).countP (fun j => ((configured fe ts s).cfgTrig[j]).getLsbD 7) = ts.length := by
    rw [← countP_lt ts.length hlen]
    congr 1
    funext j
    rw [← descriptorAt_en hpins]
    simp [configured]
  rw [latch_eq_some (by rwa [hcfgTotal, hcfgPre]), hcfgTotal, hcfgPre, hntrig]
  simp only [configured, hg0, hg1, hrle]
  congr 2
  ext j hj
  simp

/-- Eight steps write the configuration and start the capture ARM latches. -/
theorem runSteps_arms {s : State} {fe : FrontEnd} {ts : List Candidate} {l : Latched} (hf : s.faulted = none)
    (ht : s.turns = []) (hi : s.issued = runOps fe ts) (hidle : s.acq = .idle) (htx : s.txActive = false)
    (hl : latch (configured fe ts { s with issued := [] }) = some l) :
    runSteps 8 s = .next (startCapture l (configured fe ts { s with issued := [] })) :=
  (runSteps_runOps 1 hf ht hi).trans
    (runSteps_issued 0 hf ht rfl decodeOp_arm (by simp [enabledNow]) (exec_arm_of_latch hidle htx hl))

/-- Settles O46: seven CFGWR build the configuration and ARM latches it. -/
theorem hostRunArmsCapture : Obligations.HostRunArmsCapture := by
  intro s t ts drops sel total pre htrans hsel htotal hpre hf hturns hissued hidle htx hroom ht
  rw [exec_hostRun_issues htrans hsel] at ht
  obtain rfl := Host.Outcome.next.inj ht
  obtain ⟨hlen, hpins⟩ := translateStages_bounds htrans
  have hgate : decide (0 < ts.length) = decide (ts ≠ []) := by simp [List.length_pos_iff]
  refine ⟨_, runSteps_arms hf hturns (by simp [hissued]) hidle htx (latch_configured htotal hpre hroom hpins hlen),
    rfl, rfl, hf, rfl, rfl, rfl, fun j => ?_, rfl, rfl, hgate, hgate, ?_, rfl, rfl, rfl⟩
  · dsimp only [startCapture]
    rw [Fin.getElem_fin, Vector.getElem_ofFn]
    cases h : ts[j.val]? with
    | none => rw [descriptorAt_none h]; rfl
    | some c =>
      have hpin : c.pin < 32 := Nat.lt_succ_of_le (hpins c (List.mem_of_getElem? h))
      rw [descriptorAt_lowByte h]
      obtain ⟨hen, -, hfield⟩ := descriptor_fields c.kind ⟨c.pin, hpin⟩
      refine ⟨hen, hfield, (descriptor_kind c.kind ⟨c.pin, hpin⟩).trans ?_⟩
      cases c.kind <;> rfl
  · simp [startCapture, hgate]

end Sys2Proof.Machine
end
